-- ==== Sys2Proof/Word.lean ====
section
/-! DEFINITION. The word types of tile_encoder and their plainest readings (00_scope.md R8, R10). -/

namespace Sys2Proof

/-- A 32-bit register or command word (00_scope.md R7). -/
abbrev Word := BitVec 32

/-- One byte of BUF (20_memory.md R70). -/
abbrev Byte := BitVec 8

/-- The 24-bit colour `rgb(c) = c[23:0]`: R in bits 7:0, G in 15:8, B in 23:16 (00_scope.md R10). -/
abbrev Rgb := BitVec 24

/-- A 16-bit operand half: W, H, tx or ty (30_encoding.md R102). -/
abbrev Half := BitVec 16

end Sys2Proof
end

