-- ==== Sys2Proof/Config.lean ====
section
/-! DEFINITION. The parameters of 00_scope.md R7 that are fixed for this hardware, and the two values the
model names where the spec leaves one open (DESIGN CHOICE, logs 1 and 2). The spec leaves no instruction
result undefined, so there is no opaque free value. -/

namespace Sys2Proof.Config

/-- ID reads this constant (10_state.md R31). -/
def idWord : Word := 0x52500701#32

/-- The least MEM_SIZE (00_scope.md R7). -/
def memSizeMin : Nat := 16

/-- The greatest MEM_SIZE, 2^31 (00_scope.md R7). -/
def memSizeMax : Nat := 2147483648

/-- The MEM_SIZE of `State.reset`: the value 00_scope.md R7 suggests, 2^20. DESIGN CHOICE, unsafe (log 1):
MEM_SIZE is OPEN, and every statement about all states covers every value of it. -/
def memSizeSuggested : Nat := 1048576

/-- What a byte of BUF that nothing has written reads as. DESIGN CHOICE, unsafe (log 2): after power-on
every byte is unspecified (70_reset_and_hazards.md R342). -/
def unwrittenByte : Byte := 0#8

/-- LUT_CAP: the opaque slots 1..255 (00_scope.md R7). -/
def lutCap : Nat := 255

/-- FIX_CAP: the most fixed-table entries (00_scope.md R7). -/
def fixCap : Nat := 256

/-- The alpha threshold: alpha below it is transparent (00_scope.md R7, 42_color_index_mapper.md R191). -/
def alphaThreshold : Byte := 128#8

/-- The length of every command in bytes (30_encoding.md R100). -/
def commandBytes : Nat := 16

/-- The value at which WARN_COUNT saturates, and the largest length ERR_B reports (60_exceptions.md R310,
41_color_quantizer.md R171). -/
def wordMax : Nat := 4294967295

/-- The largest value of a 16-bit dimension field (43_tile_encoder.md R242). -/
def halfMax : Nat := 65535

end Sys2Proof.Config
end

