-- ==== Sys2Proof/Syntax.lean ====
section
/-! DEFINITION. The commands of tile_encoder: one constructor of `Instr` per row of spec/opcode_table.json
(30_encoding.md R103, R106), and the four words of a command descriptor (R100). -/

namespace Sys2Proof

/-- The tile layouts of TILE and FRAME: the format code F with the flags T16 and ROWS, in the nine
combinations 30_encoding.md R104 admits (codes R107, layouts 43_tile_encoder.md R230 to R237). -/
inductive TileLayout where
  | planar2
  | inter2
  | nib4h
  | nib4l
  | bp4
  | lin8
  | mono1
  | mono1T16
  | mono1T16Rows
deriving DecidableEq, Repr

/-- The palette formats of PAL: the format code F with the flag HF, in the six combinations
30_encoding.md R104 admits (codes R108, layouts 44_palette_serializer.md R276 to R280). -/
inductive PalFormat where
  | sms
  | gen
  | bgr555
  | msx2
  | fixed
  | genHf
deriving DecidableEq, Repr

/-- The slot counts of PAL, codes S = 0, 1, 2 (30_encoding.md R108). -/
inductive SlotCount where
  | s4
  | s16
  | s256
deriving DecidableEq, Repr

/-- A command, one constructor per row of spec/opcode_table.json. `b` is the field F of the quantizer
commands, whose legal range 1..8 `Instr.WellFormed` checks (30_encoding.md R104). -/
inductive Instr where
  | endStream
  | nop
  | setout (out col : Word)
  | qsnap (b : BitVec 4) (c : Word)
  | qton (b : BitVec 4) (c : Word)
  | qexp (b : BitVec 4) (codes : Word)
  | qfix (c : Word)
  | mapclr
  | mapbuild (cl n : Word)
  | maplook (px : Word)
  | tilePlanar2 (fb : Word) (w h tx ty : Half)
  | tileInter2 (fb : Word) (w h tx ty : Half)
  | tileNib4h (fb : Word) (w h tx ty : Half)
  | tileNib4l (fb : Word) (w h tx ty : Half)
  | tileBp4 (fb : Word) (w h tx ty : Half)
  | tileLin8 (fb : Word) (w h tx ty : Half)
  | tileMono1 (fb : Word) (w h tx ty : Half)
  | tileMono1T16 (fb : Word) (w h tx ty : Half)
  | tileMono1T16Rows (fb : Word) (w h tx ty : Half)
  | framePlanar2 (fb : Word) (w h : Half)
  | frameInter2 (fb : Word) (w h : Half)
  | frameNib4h (fb : Word) (w h : Half)
  | frameNib4l (fb : Word) (w h : Half)
  | frameBp4 (fb : Word) (w h : Half)
  | frameLin8 (fb : Word) (w h : Half)
  | frameMono1 (fb : Word) (w h : Half)
  | frameMono1T16 (fb : Word) (w h : Half)
  | frameMono1T16Rows (fb : Word) (w h : Half)
  | palSms (slots : SlotCount)
  | palGen (slots : SlotCount)
  | palBgr555 (slots : SlotCount)
  | palMsx2 (slots : SlotCount)
  | palFixed (slots : SlotCount)
  | palGenHf (slots : SlotCount)
deriving DecidableEq, Repr

/-- The four words of one CMD16 descriptor, W0 at offset 0 to W3 at offset 12 (30_encoding.md R100). -/
structure Descriptor where
  w0 : Word
  w1 : Word
  w2 : Word
  w3 : Word
deriving DecidableEq, Repr

/-- Why a descriptor is no command: the first word found illegal, in the order W0, W1, W2, W3
(30_encoding.md R105), or fewer than 16 bytes were given to the decoder. -/
inductive Reject where
  | illegalW0
  | illegalW1
  | illegalW2
  | illegalW3
  | truncated
deriving DecidableEq, Repr

end Sys2Proof
end

