-- ==== Sys2Proof/Machine/State.lean ====
section
/-! DEFINITION. The state of tile_encoder as plain data: the tuple of 10_state.md R49, with two fields of
the model's own (`memSize`, the OPEN parameter MEM_SIZE, and `host`, the actions the second agent is still
to take), the state right after power-on reset, and the reasons a step can stop. -/

namespace Sys2Proof.Machine

/-- BUF as a list of (address, byte) pairs. Canonical form (`Memory.wf`, Machine/Ops.lean): addresses
strictly rising, and no entry equal to what an unlisted address reads as. -/
abbrev Memory := List Host.Cell

/-- The error codes of STATUS.ERRCODE (60_exceptions.md R301); the codes 0x0B..0xFF are never raised
(DEDUCED, log 9). -/
inductive ErrCode where
  /-- 0x00: no error; the value after GO and reset. -/
  | none
  /-- 0x01: the fetched descriptor is not a legal encoding. -/
  | illegal
  /-- 0x02: CMD_PTR is not a multiple of 4 at fetch. -/
  | align
  /-- 0x03: a byte range the step would access is not inside BUF. -/
  | bounds
  /-- 0x04: a write range overlaps a read range or the other write range. -/
  | overlap
  /-- 0x05: a frame dimension is 0 or not a multiple of T. -/
  | dimension
  /-- 0x06: more distinct opaque colours than the effective limit. -/
  | colorLimit
  /-- 0x07: an opaque colour occurs twice in the colour list. -/
  | dupColor
  /-- 0x08: LUT_VALID = 0. -/
  | noMap
  /-- 0x09: a value does not fit its field or range. -/
  | range
  /-- 0x0A: a colour needed as a fixed-table code is not in the fixed table. -/
  | notInPalette
deriving DecidableEq, Repr

/-- What `raise Err(CODE, a, b)` carries: the code and the two info words (00_scope.md R9,
60_exceptions.md R302). -/
structure Err where
  code : ErrCode
  a : Word
  b : Word
deriving DecidableEq, Repr

/-- One action of the host or the platform, taken between two commands (60_exceptions.md R330,
70_reset_and_hazards.md R340; logs 4 and 11). -/
inductive HostAction where
  /-- The host leaves the block alone for one step of the block. -/
  | letRun
  /-- A write of one register of the port, at its word index (10_state.md R30). -/
  | writeReg (index : Nat) (value : Word)
  /-- A write of bytes into BUF, the first at `base` (60_exceptions.md R330). -/
  | loadBuf (base : Nat) (bytes : List Byte)
  /-- Power-on reset by the platform, with the BUF contents it happens to leave: a byte at each listed
  address, `Config.unwrittenByte` elsewhere (70_reset_and_hazards.md R342). -/
  | powerOn (cells : List Host.Cell)
deriving DecidableEq, Repr

/-- The full architectural state (10_state.md R49). -/
structure State where
  /-- MEM_SIZE (00_scope.md R7): the model's own field, an argument no step changes (log 1). -/
  memSize : Nat
  /-- The actions the host is still to take, the next one first: the model's own field (log 4). -/
  host : List HostAction
  /-- BUF (20_memory.md R70). -/
  buf : Memory
  /-- CTRL.IE (10_state.md R32). -/
  ie : Bool
  /-- STATUS.BUSY (10_state.md R34). -/
  busy : Bool
  /-- STATUS.DONE (10_state.md R34). -/
  done : Bool
  /-- STATUS.ERROR (10_state.md R34). -/
  error : Bool
  /-- STATUS.ERRCODE (10_state.md R34, 60_exceptions.md R301). -/
  errCode : ErrCode
  /-- CMD_PTR, the program counter of the command stream (10_state.md R33). -/
  cmdPtr : Word
  /-- OUT_PTR (10_state.md R35). -/
  outPtr : Word
  /-- COL_PTR (10_state.md R36). -/
  colPtr : Word
  /-- MAXCOLORS.MAX (10_state.md R37). -/
  maxLimit : Byte
  /-- MAXCOLORS.UNLIMITED (10_state.md R37). -/
  unlimited : Bool
  /-- FIX_BASE (10_state.md R38). -/
  fixBase : Word
  /-- FIX_COUNT, 0..256 (10_state.md R38). -/
  fixCount : BitVec 9
  /-- ERR_A (10_state.md R40). -/
  errA : Word
  /-- ERR_B (10_state.md R40). -/
  errB : Word
  /-- WARN_COUNT (10_state.md R43). -/
  warnCount : Word
  /-- WARN_RGBA (10_state.md R43). -/
  warnRgba : Word
  /-- LUT_VALID (10_state.md R41). -/
  lutValid : Bool
  /-- LUT_N (10_state.md R41). -/
  lutN : Byte
  /-- LUT[1..255], slot s at index s - 1; slot 0 has no storage (10_state.md R41). -/
  lut : Vector Rgb 255
  /-- RESULT (10_state.md R44). -/
  result : Word
deriving DecidableEq, Repr

/-- The machine right after power-on reset (70_reset_and_hazards.md R341). DESIGN CHOICE: MEM_SIZE is the
suggested 2^20 (log 1), every byte of BUF reads `Config.unwrittenByte` (log 2), and the host has no action
to come (log 4). -/
def State.reset : State where
  memSize := Config.memSizeSuggested
  host := []
  buf := []
  ie := false
  busy := false
  done := false
  error := false
  errCode := .none
  cmdPtr := 0#32
  outPtr := 0#32
  colPtr := 0#32
  maxLimit := 0#8
  unlimited := true
  fixBase := 0#32
  fixCount := 0#9
  errA := 0#32
  errB := 0#32
  warnCount := 0#32
  warnRgba := 0#32
  lutValid := false
  lutN := 0#8
  lut := Vector.replicate 255 0#24
  result := 0#32

/-- Why the machine stops with a fault. No instruction raises one: every error of a command is the abort of
60_exceptions.md R304, a next state. -/
inductive Fault where
  /-- The host loads BUF at addresses that do not exist, outside 0..MEM_SIZE-1 (20_memory.md R70). Raised by
  `hostStep` for `HostAction.loadBuf` only. Safe: the spec gives such a write no effect (log 12). -/
  | hostOutsideBuf
deriving DecidableEq, Repr

/-- Why a step is refused. -/
inductive Refusal where
  /-- An instruction the model gives no meaning. No arm of `exec` answers it any more. Safe. -/
  | notModelled (mnemonic : String)
  /-- The host writes BUF while STATUS.BUSY = 1: 93_implementation_defined.md P1 makes it a precondition of
  the model (`refuse`). Raised by `hostStep` for `HostAction.loadBuf` only. Safe (log 6). -/
  | hostWroteBufWhileBusy
deriving DecidableEq, Repr

end Sys2Proof.Machine
end

