-- ==== Sys2Proof/Machine/Ops.lean ====
section
/-! DEFINITION. The named operations over memory and registers, and the two ways a command ends: the common
advance and the abort. -/

namespace Sys2Proof.Machine

/-! ## BUF (20_memory.md R70, R71; 00_scope.md R9) -/

/-- The canonical form of BUF: addresses strictly rising, no entry equal to what an unlisted address reads
as, so that equal memories are equal lists. -/
abbrev Memory.wf (m : Memory) : Prop :=
  m.Pairwise (fun c d => c.1 < d.1) ∧ ∀ c ∈ m, c.2 ≠ Config.unwrittenByte

/-- `MemRead(a, 1)`: the byte at an address; an unlisted address reads `Config.unwrittenByte` (log 2). -/
def Memory.read : Memory → Nat → Byte
  | [], _ => Config.unwrittenByte
  | (k, v) :: rest, a => if k = a then v else Memory.read rest a

/-- BUF without the entry at an address. -/
def Memory.erase (m : Memory) (a : Nat) : Memory := m.filter fun c => decide (c.1 ≠ a)

/-- An entry put at its place among rising addresses. -/
def Memory.insert (c : Host.Cell) : Memory → Memory
  | [] => [c]
  | d :: rest => if c.1 < d.1 then c :: d :: rest else d :: Memory.insert c rest

/-- `MemWrite(a, 1, v)`: one byte written. Writing what an unlisted address reads as removes the entry. -/
def Memory.write (m : Memory) (a : Nat) (v : Byte) : Memory :=
  if v = Config.unwrittenByte then m.erase a else Memory.insert (a, v) (m.erase a)

/-- Bytes written at rising addresses, the first at `a` (20_memory.md R76). -/
def Memory.writeBytes : Memory → Nat → List Byte → Memory
  | m, _, [] => m
  | m, a, v :: vs => Memory.writeBytes (m.write a v) (a + 1) vs

/-- `MemRead(a, 4)` = {BUF[a+3], BUF[a+2], BUF[a+1], BUF[a]} (20_memory.md R71). -/
def Memory.readWord (m : Memory) (a : Nat) : Word :=
  m.read (a + 3) ++ m.read (a + 2) ++ m.read (a + 1) ++ m.read a

/-- The memory that holds a byte at each listed address below `size`, the first pair for an address winning:
the drawn contents of a power-on reset (70_reset_and_hazards.md R342). -/
def Memory.ofCells (size : Nat) : List Host.Cell → Memory
  | [] => []
  | (a, v) :: rest => if a < size then (Memory.ofCells size rest).write a v else Memory.ofCells size rest

/-! ## Info words -/

/-- A length as an info word: `min(len, 0xFFFFFFFF)` (20_memory.md R74). -/
def clipWord (n : Nat) : Word := BitVec.ofNat 32 (min n Config.wordMax)

/-! ## Register and memory updates -/

/-- The common advance `CMD_PTR <- a + 16` (40_stream_control.md R140). -/
def advance (s : State) : State := { s with cmdPtr := s.cmdPtr + 16#32 }

/-- `start`: what a GO write does while idle (40_stream_control.md R140). -/
def start (s : State) : State :=
  { s with done := false, error := false, errCode := .none, errA := 0#32, errB := 0#32, busy := true }

/-- TAKING AN ERROR: the abort. ERROR, ERRCODE, ERR_A and ERR_B are written and BUSY cleared; nothing else
changes, so CMD_PTR still holds the address of the failing descriptor (60_exceptions.md R304, R305). The
return from it is the host's GO, `start`, which clears what the abort wrote (R306). -/
def abort (e : Err) (s : State) : State :=
  { s with error := true, errCode := e.code, errA := e.a, errB := e.b, busy := false }

/-- What END writes: DONE <- 1 and BUSY <- 0 (40_stream_control.md R141). -/
def finishStream (s : State) : State := { s with done := true, busy := false }

/-- SETOUT's writes of the output pointers (40_stream_control.md R143). -/
def setPointers (out col : Word) (s : State) : State := { s with outPtr := out, colPtr := col }

/-- `reg[RESULT] <- v` (10_state.md R44). -/
def setResult (v : Word) (s : State) : State := { s with result := v }

/-- The LUT discarded: every slot 0, LUT_N and LUT_VALID 0 (42_color_index_mapper.md R192). -/
def clearLut (s : State) : State :=
  { s with lut := Vector.replicate 255 0#24, lutN := 0#8, lutValid := false }

/-- The LUT built from the opaque colours in list order: LUT[s] = L[s-1], 0 beyond them, LUT_N their number,
LUT_VALID = 1 (42_color_index_mapper.md R193). -/
def setLut (colors : List Rgb) (s : State) : State :=
  { s with
    lut := Vector.ofFn fun k : Fin 255 => colors.getD k.val 0#24
    lutN := BitVec.ofNat 8 colors.length
    lutValid := true }

/-- Output bytes written from OUT_PTR on, and OUT_PTR advanced by their number (10_state.md R35). -/
def putOut (bytes : List Byte) (s : State) : State :=
  { s with
    buf := s.buf.writeBytes s.outPtr.toNat bytes
    outPtr := s.outPtr + BitVec.ofNat 32 bytes.length }

/-- MONO1 colour bytes written from COL_PTR on, and COL_PTR advanced by their number (10_state.md R36). -/
def putCol (bytes : List Byte) (s : State) : State :=
  { s with
    buf := s.buf.writeBytes s.colPtr.toNat bytes
    colPtr := s.colPtr + BitVec.ofNat 32 bytes.length }

/-- `warn(px)`: the first miss since the last clear is latched, the count saturates (60_exceptions.md
R310). -/
def warn (px : Word) (s : State) : State :=
  { s with
    warnRgba := if s.warnCount = 0#32 then px else s.warnRgba
    warnCount := if s.warnCount.toNat < Config.wordMax then s.warnCount + 1#32 else s.warnCount }

/-- One warning per miss, in the order given (43_tile_encoder.md R223). -/
def warnAll : List Word → State → State
  | [], s => s
  | px :: rest, s => warnAll rest (warn px s)

/-- CLRWARN: WARN_COUNT and WARN_RGBA to 0 (60_exceptions.md R311). -/
def clearWarnings (s : State) : State := { s with warnCount := 0#32, warnRgba := 0#32 }

/-- Every register and the LUT at the values of 70_reset_and_hazards.md R341. BUF is kept, as are the
model's own fields: this is the soft reset (R340). -/
def softReset (s : State) : State :=
  { State.reset with memSize := s.memSize, host := s.host, buf := s.buf }

/-- Power-on reset: the registers as after a soft reset, BUF with the contents drawn
(70_reset_and_hazards.md R340, R342). -/
def powerOnReset (cells : List Host.Cell) (s : State) : State :=
  { softReset s with buf := Memory.ofCells s.memSize cells }

/-! ## How a command ends -/

/-- A command's body has run on `s`: it completed in `t`, and the common advance follows
(40_stream_control.md R140), or it raised, and the abort takes `s` itself, because a raise leaves no state
change of the command behind (60_exceptions.md R304). -/
def complete (s : State) : Except Err State → Host.Outcome State Fault Refusal
  | .ok t => .next (advance t)
  | .error e => .next (abort e s)

end Sys2Proof.Machine
end

