-- ==== Sys2Proof/Machine/Flags.lean ====
section
/-! DEFINITION. The status flags and the words a host reads them in (10_state.md R32, R34, R37, R42;
60_exceptions.md R301, R308). No command sets a flag as a side effect other than these (10_state.md R47). -/

namespace Sys2Proof.Machine

/-- The byte of an error code (60_exceptions.md R301). -/
def ErrCode.byte : ErrCode → Byte
  | .none => 0x00#8
  | .illegal => 0x01#8
  | .align => 0x02#8
  | .bounds => 0x03#8
  | .overlap => 0x04#8
  | .dimension => 0x05#8
  | .colorLimit => 0x06#8
  | .dupColor => 0x07#8
  | .noMap => 0x08#8
  | .range => 0x09#8
  | .notInPalette => 0x0A#8

/-- STATUS.WARN, live: `WARN_COUNT != 0` (10_state.md R34). -/
def warnFlag (s : State) : Bool := decide (s.warnCount ≠ 0#32)

/-- The interrupt output and STATUS.IRQ, live: `CTRL.IE & (DONE | ERROR)` (60_exceptions.md R308). -/
def irq (s : State) : Bool := s.ie && (s.done || s.error)

/-- The word STATUS reads: ERRCODE in 15:8, IRQ, WARN, ERROR, DONE, BUSY in 4:0 (10_state.md R34). -/
def statusWord (s : State) : Word :=
  0#16 ++ s.errCode.byte ++ 0#3 ++ BitVec.ofBool (irq s) ++ BitVec.ofBool (warnFlag s) ++
    BitVec.ofBool s.error ++ BitVec.ofBool s.done ++ BitVec.ofBool s.busy

/-- The word CTRL reads: `{29'b0, IE, 2'b0}` (10_state.md R32). -/
def ctrlWord (s : State) : Word := 0#29 ++ BitVec.ofBool s.ie ++ 0#2

/-- The word MAXCOLORS reads: UNLIMITED in bit 31, MAX in 7:0 (10_state.md R37). -/
def maxColorsWord (s : State) : Word := BitVec.ofBool s.unlimited ++ 0#23 ++ s.maxLimit

/-- The effective limit `maxEff = UNLIMITED ? 255 : MAX` (10_state.md R37). -/
def maxEff (s : State) : Nat := if s.unlimited then Config.lutCap else s.maxLimit.toNat

/-- The word LUT_STAT reads: `{LUT_VALID, 23'b0, LUT_N}` (10_state.md R42). -/
def lutStatWord (s : State) : Word := BitVec.ofBool s.lutValid ++ 0#23 ++ s.lutN

end Sys2Proof.Machine
end

