-- ==== Sys2Proof/WellFormed.lean ====
section
/-! DEFINITION. Which commands have an encoding: the legal ranges a constructor's type does not already
express (30_encoding.md R104). -/

namespace Sys2Proof

/-- The bit depth of QSNAP, QTON and QEXP is 1..8 (30_encoding.md R104, R109). -/
def legalDepth (b : BitVec 4) : Bool := decide (1 ≤ b.toNat) && decide (b.toNat ≤ 8)

/-- Every field that 30_encoding.md R104 restricts, and that the constructor's type leaves open, holds a
legal value. -/
def Instr.check : Instr → Bool
  | .qsnap b _ => legalDepth b
  | .qton b _ => legalDepth b
  | .qexp b _ => legalDepth b
  | .endStream | .nop | .setout _ _ | .qfix _ | .mapclr | .mapbuild _ _ | .maplook _ => true
  | .tilePlanar2 _ _ _ _ _ | .tileInter2 _ _ _ _ _ | .tileNib4h _ _ _ _ _ | .tileNib4l _ _ _ _ _
  | .tileBp4 _ _ _ _ _ | .tileLin8 _ _ _ _ _ | .tileMono1 _ _ _ _ _ | .tileMono1T16 _ _ _ _ _
  | .tileMono1T16Rows _ _ _ _ _ => true
  | .framePlanar2 _ _ _ | .frameInter2 _ _ _ | .frameNib4h _ _ _ | .frameNib4l _ _ _ | .frameBp4 _ _ _
  | .frameLin8 _ _ _ | .frameMono1 _ _ _ | .frameMono1T16 _ _ _ | .frameMono1T16Rows _ _ _ => true
  | .palSms _ | .palGen _ | .palBgr555 _ | .palMsx2 _ | .palFixed _ | .palGenHf _ => true

/-- The legal commands. -/
abbrev Instr.WellFormed (i : Instr) : Prop := i.check = true

end Sys2Proof
end

