-- ==== Sys2Proof/Decode.lean ====
section
/-! DEFINITION. Decoding (30_encoding.md R100 to R109) and, after it, the encoder written from the same
tables. Both are total, read no state (R106) and reject by name. -/

namespace Sys2Proof

/-! ## Fields of W0 (30_encoding.md R101) -/

/-- OP, W0[7:0]. -/
def opField (w0 : Word) : Byte := w0.extractLsb' 0 8

/-- F, W0[11:8]. -/
def fField (w0 : Word) : BitVec 4 := w0.extractLsb' 8 4

/-- S, W0[13:12]. -/
def sField (w0 : Word) : BitVec 2 := w0.extractLsb' 12 2

/-- X0, W0[16]: T16 of TILE and FRAME, HF of PAL. -/
def x0Field (w0 : Word) : Bool := w0.getLsbD 16

/-- X1, W0[17]: ROWS of TILE and FRAME. -/
def x1Field (w0 : Word) : Bool := w0.getLsbD 17

/-- The reserved bits W0[15:14] and W0[31:18] are 0 (30_encoding.md R104). -/
def reservedClear (w0 : Word) : Bool := w0.extractLsb' 14 2 == 0#2 && w0.extractLsb' 18 14 == 0#14

/-- Bits 15:0 of an operand word: W or tx (30_encoding.md R102). -/
def lowHalf (w : Word) : Half := w.extractLsb' 0 16

/-- Bits 31:16 of an operand word: H or ty (30_encoding.md R102). -/
def highHalf (w : Word) : Half := w.extractLsb' 16 16

/-! ## Decoding -/

/-- What W0 alone says of a command: the opcode with its F, S, X0 and X1 fields (30_encoding.md R103). -/
inductive Head where
  | endStream
  | nop
  | setout
  | qsnap (b : BitVec 4)
  | qton (b : BitVec 4)
  | qexp (b : BitVec 4)
  | qfix
  | mapclr
  | mapbuild
  | maplook
  | tile (layout : TileLayout)
  | frame (layout : TileLayout)
  | pal (format : PalFormat) (slots : SlotCount)
deriving DecidableEq, Repr

/-- The tile layout of F, T16 and ROWS: F is 0..6, T16 = 1 only when F = 6, ROWS = 1 only when T16 = 1
(30_encoding.md R104, R107). -/
def layoutOfCode (f : BitVec 4) (t16 rows : Bool) : Option TileLayout :=
  match f.toNat, t16, rows with
  | 0, false, false => some .planar2
  | 1, false, false => some .inter2
  | 2, false, false => some .nib4h
  | 3, false, false => some .nib4l
  | 4, false, false => some .bp4
  | 5, false, false => some .lin8
  | 6, false, false => some .mono1
  | 6, true, false => some .mono1T16
  | 6, true, true => some .mono1T16Rows
  | _, _, _ => none

/-- The palette format of F and HF: F is 0..4, HF = 1 only when F = 1 (30_encoding.md R104, R108). -/
def palFormatOfCode (f : BitVec 4) (hf : Bool) : Option PalFormat :=
  match f.toNat, hf with
  | 0, false => some .sms
  | 1, false => some .gen
  | 2, false => some .bgr555
  | 3, false => some .msx2
  | 4, false => some .fixed
  | 1, true => some .genHf
  | _, _ => none

/-- The slot count of S: 0, 1, 2 give 4, 16, 256 and 3 is illegal (30_encoding.md R108). -/
def slotCountOfCode (s : BitVec 2) : Option SlotCount :=
  match s.toNat with
  | 0 => some .s4
  | 1 => some .s16
  | 2 => some .s256
  | _ => none

/-- A command that uses no W0 field beside OP: F, S, X0 and X1 must be 0 (30_encoding.md R104). -/
def plainHead (w0 : Word) (h : Head) : Option Head :=
  if fField w0 = 0#4 ∧ sField w0 = 0#2 ∧ x0Field w0 = false ∧ x1Field w0 = false then some h else none

/-- A command whose only field is the bit depth F = 1..8 (30_encoding.md R104, R109). -/
def depthHead (w0 : Word) (h : BitVec 4 → Head) : Option Head :=
  if legalDepth (fField w0) = true ∧ sField w0 = 0#2 ∧ x0Field w0 = false ∧ x1Field w0 = false then
    some (h (fField w0))
  else none

/-- TILE and FRAME use F, X0 and X1; S must be 0 (30_encoding.md R104). -/
def layoutHead (w0 : Word) (h : TileLayout → Head) : Option Head :=
  if sField w0 = 0#2 then (layoutOfCode (fField w0) (x0Field w0) (x1Field w0)).map h else none

/-- PAL uses F, S and X0; X1 must be 0 (30_encoding.md R104). -/
def palHead (w0 : Word) : Option Head :=
  if x1Field w0 = false then
    match palFormatOfCode (fField w0) (x0Field w0), slotCountOfCode (sField w0) with
    | some p, some s => some (.pal p s)
    | _, _ => none
  else none

/-- The opcode map with the legality of W0; `none` is an illegal W0 (30_encoding.md R103, R104). -/
def decodeHead (w0 : Word) : Option Head :=
  if reservedClear w0 = true then
    match (opField w0).toNat with
    | 0x00 => plainHead w0 .endStream
    | 0x01 => plainHead w0 .nop
    | 0x02 => plainHead w0 .setout
    | 0x10 => depthHead w0 .qsnap
    | 0x11 => depthHead w0 .qton
    | 0x12 => depthHead w0 .qexp
    | 0x13 => plainHead w0 .qfix
    | 0x20 => plainHead w0 .mapclr
    | 0x21 => plainHead w0 .mapbuild
    | 0x22 => plainHead w0 .maplook
    | 0x30 => layoutHead w0 .tile
    | 0x31 => layoutHead w0 .frame
    | 0x40 => palHead w0
    | _ => none
  else none

/-- Which of W1, W2 and W3 must be zero: the "0" entries of 30_encoding.md R102. -/
def Head.zeroWords : Head → Bool × Bool × Bool
  | .endStream | .nop | .mapclr | .pal _ _ => (true, true, true)
  | .qsnap _ | .qton _ | .qexp _ | .qfix | .maplook => (false, true, true)
  | .setout | .mapbuild | .frame _ => (false, false, true)
  | .tile _ => (false, false, false)

/-- The first operand word, in the order W1, W2, W3, that must be zero and is not (30_encoding.md R105). -/
def badOperand (h : Head) (d : Descriptor) : Option Reject :=
  if h.zeroWords.1 = true ∧ d.w1 ≠ 0#32 then some .illegalW1
  else if h.zeroWords.2.1 = true ∧ d.w2 ≠ 0#32 then some .illegalW2
  else if h.zeroWords.2.2 = true ∧ d.w3 ≠ 0#32 then some .illegalW3
  else none

/-- The TILE command of a layout, its operands read from W1 to W3 (30_encoding.md R102). -/
def tileInstr (layout : TileLayout) (fb : Word) (w h tx ty : Half) : Instr :=
  match layout with
  | .planar2 => .tilePlanar2 fb w h tx ty
  | .inter2 => .tileInter2 fb w h tx ty
  | .nib4h => .tileNib4h fb w h tx ty
  | .nib4l => .tileNib4l fb w h tx ty
  | .bp4 => .tileBp4 fb w h tx ty
  | .lin8 => .tileLin8 fb w h tx ty
  | .mono1 => .tileMono1 fb w h tx ty
  | .mono1T16 => .tileMono1T16 fb w h tx ty
  | .mono1T16Rows => .tileMono1T16Rows fb w h tx ty

/-- The FRAME command of a layout (30_encoding.md R102). -/
def frameInstr (layout : TileLayout) (fb : Word) (w h : Half) : Instr :=
  match layout with
  | .planar2 => .framePlanar2 fb w h
  | .inter2 => .frameInter2 fb w h
  | .nib4h => .frameNib4h fb w h
  | .nib4l => .frameNib4l fb w h
  | .bp4 => .frameBp4 fb w h
  | .lin8 => .frameLin8 fb w h
  | .mono1 => .frameMono1 fb w h
  | .mono1T16 => .frameMono1T16 fb w h
  | .mono1T16Rows => .frameMono1T16Rows fb w h

/-- The PAL command of a format (30_encoding.md R102). -/
def palInstr (format : PalFormat) (slots : SlotCount) : Instr :=
  match format with
  | .sms => .palSms slots
  | .gen => .palGen slots
  | .bgr555 => .palBgr555 slots
  | .msx2 => .palMsx2 slots
  | .fixed => .palFixed slots
  | .genHf => .palGenHf slots

/-- The command a legal W0 and its operand words stand for (30_encoding.md R102, R106). -/
def Head.command (h : Head) (d : Descriptor) : Instr :=
  match h with
  | .endStream => .endStream
  | .nop => .nop
  | .setout => .setout d.w1 d.w2
  | .qsnap b => .qsnap b d.w1
  | .qton b => .qton b d.w1
  | .qexp b => .qexp b d.w1
  | .qfix => .qfix d.w1
  | .mapclr => .mapclr
  | .mapbuild => .mapbuild d.w1 d.w2
  | .maplook => .maplook d.w1
  | .tile L => tileInstr L d.w1 (lowHalf d.w2) (highHalf d.w2) (lowHalf d.w3) (highHalf d.w3)
  | .frame L => frameInstr L d.w1 (lowHalf d.w2) (highHalf d.w2)
  | .pal p s => palInstr p s

/-- Decoding as a function: total on every 128-bit value, naming the first illegal word
(30_encoding.md R105, R106). -/
def decode (d : Descriptor) : Except Reject Instr :=
  match decodeHead d.w0 with
  | none => .error .illegalW0
  | some h =>
    match badOperand h d with
    | some r => .error r
    | none => .ok (h.command d)

/-- k of 30_encoding.md R105, the index of the first illegal word; a truncated input has none and reads
as 0 (the fetch never produces it: it always gives sixteen bytes). -/
def Reject.index : Reject → Word
  | .illegalW0 => 0#32
  | .illegalW1 => 1#32
  | .illegalW2 => 2#32
  | .illegalW3 => 3#32
  | .truncated => 0#32

/-- Four bytes as a little-endian word, the first byte in bits 7:0 (20_memory.md R71). -/
def wordOfBytes (b0 b1 b2 b3 : Byte) : Word := b3 ++ b2 ++ b1 ++ b0

/-- The descriptor that sixteen bytes hold, each word little-endian (30_encoding.md R100). -/
def descriptorOfBytes : List Byte → Option Descriptor
  | [a0, a1, a2, a3, b0, b1, b2, b3, c0, c1, c2, c3, d0, d1, d2, d3] =>
    some ⟨wordOfBytes a0 a1 a2 a3, wordOfBytes b0 b1 b2 b3, wordOfBytes c0 c1 c2 c3, wordOfBytes d0 d1 d2 d3⟩
  | _ => none

/-- Decoding from any bytes: the first sixteen are the command (30_encoding.md R100). -/
def decodeBytes (bs : List Byte) : Except Reject Instr :=
  match descriptorOfBytes (bs.take Config.commandBytes) with
  | none => .error .truncated
  | some d => decode d

/-! ## Encoding -/

/-- W0 from its fields, the reserved bits 0 (30_encoding.md R101). -/
def packHead (op : Byte) (f : BitVec 4) (s : BitVec 2) (x0 x1 : Bool) : Word :=
  0#14 ++ BitVec.ofBool x1 ++ BitVec.ofBool x0 ++ 0#2 ++ s ++ f ++ op

/-- The code S of a slot count (30_encoding.md R108). -/
def SlotCount.code : SlotCount → BitVec 2
  | .s4 => 0#2
  | .s16 => 1#2
  | .s256 => 2#2

/-- The operand words of TILE: W2 = H ++ W and W3 = ty ++ tx (30_encoding.md R102). -/
def tileDescriptor (w0 fb : Word) (w h tx ty : Half) : Descriptor := ⟨w0, fb, h ++ w, ty ++ tx⟩

/-- The operand words of FRAME: W2 = H ++ W and W3 = 0 (30_encoding.md R102). -/
def frameDescriptor (w0 fb : Word) (w h : Half) : Descriptor := ⟨w0, fb, h ++ w, 0#32⟩

/-- The words of PAL: W1 = W2 = W3 = 0 (30_encoding.md R102). -/
def palDescriptor (w0 : Word) : Descriptor := ⟨w0, 0#32, 0#32, 0#32⟩

/-- The words of a command (30_encoding.md R101, R102, R103, R107, R108). -/
def encode : Instr → Descriptor
  | .endStream => ⟨packHead 0x00#8 0#4 0#2 false false, 0#32, 0#32, 0#32⟩
  | .nop => ⟨packHead 0x01#8 0#4 0#2 false false, 0#32, 0#32, 0#32⟩
  | .setout out col => ⟨packHead 0x02#8 0#4 0#2 false false, out, col, 0#32⟩
  | .qsnap b c => ⟨packHead 0x10#8 b 0#2 false false, c, 0#32, 0#32⟩
  | .qton b c => ⟨packHead 0x11#8 b 0#2 false false, c, 0#32, 0#32⟩
  | .qexp b codes => ⟨packHead 0x12#8 b 0#2 false false, codes, 0#32, 0#32⟩
  | .qfix c => ⟨packHead 0x13#8 0#4 0#2 false false, c, 0#32, 0#32⟩
  | .mapclr => ⟨packHead 0x20#8 0#4 0#2 false false, 0#32, 0#32, 0#32⟩
  | .mapbuild cl n => ⟨packHead 0x21#8 0#4 0#2 false false, cl, n, 0#32⟩
  | .maplook px => ⟨packHead 0x22#8 0#4 0#2 false false, px, 0#32, 0#32⟩
  | .tilePlanar2 fb w h tx ty => tileDescriptor (packHead 0x30#8 0#4 0#2 false false) fb w h tx ty
  | .tileInter2 fb w h tx ty => tileDescriptor (packHead 0x30#8 1#4 0#2 false false) fb w h tx ty
  | .tileNib4h fb w h tx ty => tileDescriptor (packHead 0x30#8 2#4 0#2 false false) fb w h tx ty
  | .tileNib4l fb w h tx ty => tileDescriptor (packHead 0x30#8 3#4 0#2 false false) fb w h tx ty
  | .tileBp4 fb w h tx ty => tileDescriptor (packHead 0x30#8 4#4 0#2 false false) fb w h tx ty
  | .tileLin8 fb w h tx ty => tileDescriptor (packHead 0x30#8 5#4 0#2 false false) fb w h tx ty
  | .tileMono1 fb w h tx ty => tileDescriptor (packHead 0x30#8 6#4 0#2 false false) fb w h tx ty
  | .tileMono1T16 fb w h tx ty => tileDescriptor (packHead 0x30#8 6#4 0#2 true false) fb w h tx ty
  | .tileMono1T16Rows fb w h tx ty => tileDescriptor (packHead 0x30#8 6#4 0#2 true true) fb w h tx ty
  | .framePlanar2 fb w h => frameDescriptor (packHead 0x31#8 0#4 0#2 false false) fb w h
  | .frameInter2 fb w h => frameDescriptor (packHead 0x31#8 1#4 0#2 false false) fb w h
  | .frameNib4h fb w h => frameDescriptor (packHead 0x31#8 2#4 0#2 false false) fb w h
  | .frameNib4l fb w h => frameDescriptor (packHead 0x31#8 3#4 0#2 false false) fb w h
  | .frameBp4 fb w h => frameDescriptor (packHead 0x31#8 4#4 0#2 false false) fb w h
  | .frameLin8 fb w h => frameDescriptor (packHead 0x31#8 5#4 0#2 false false) fb w h
  | .frameMono1 fb w h => frameDescriptor (packHead 0x31#8 6#4 0#2 false false) fb w h
  | .frameMono1T16 fb w h => frameDescriptor (packHead 0x31#8 6#4 0#2 true false) fb w h
  | .frameMono1T16Rows fb w h => frameDescriptor (packHead 0x31#8 6#4 0#2 true true) fb w h
  | .palSms s => palDescriptor (packHead 0x40#8 0#4 s.code false false)
  | .palGen s => palDescriptor (packHead 0x40#8 1#4 s.code false false)
  | .palBgr555 s => palDescriptor (packHead 0x40#8 2#4 s.code false false)
  | .palMsx2 s => palDescriptor (packHead 0x40#8 3#4 s.code false false)
  | .palFixed s => palDescriptor (packHead 0x40#8 4#4 s.code false false)
  | .palGenHf s => palDescriptor (packHead 0x40#8 1#4 s.code true false)

/-- The four bytes of a word in BUF, lowest address first (20_memory.md R71). -/
def bytesOfWord (w : Word) : List Byte :=
  [w.extractLsb' 0 8, w.extractLsb' 8 8, w.extractLsb' 16 8, w.extractLsb' 24 8]

/-- The sixteen bytes of a descriptor in BUF (30_encoding.md R100). -/
def bytesOfDescriptor (d : Descriptor) : List Byte :=
  bytesOfWord d.w0 ++ bytesOfWord d.w1 ++ bytesOfWord d.w2 ++ bytesOfWord d.w3

/-- The sixteen bytes of a command in BUF. -/
def encodeBytes (i : Instr) : List Byte := bytesOfDescriptor (encode i)

/-! ## The table's numbering -/

/-- The sixteen bytes as the hardware stores them of an instruction whose first `nbits` bits are `w`, bit 0
the least significant bit of W0, and whose other bits are 0: byte k holds bits 8k+7..8k. -/
def tableBytes (nbits w : Nat) : List Byte :=
  (List.range Config.commandBytes).map fun k => BitVec.ofNat 8 ((w % 2 ^ nbits) / 2 ^ (8 * k))

/-- The instruction the decoder reads from the bits `w` of a row of spec/opcode_table.json. -/
def decodeTableWord (nbits w : Nat) : Option Instr :=
  match decodeBytes (tableBytes nbits w) with
  | .ok i => some i
  | .error _ => none

end Sys2Proof
end

