-- ==== Sys2Proof/Machine/Operands.lean ====
section
/-! DEFINITION. The operand forms: colours, byte ranges with their checks, pixels and windows of a frame,
the LUT's colours and the fixed table. -/

namespace Sys2Proof.Machine

/-! ## Colours (00_scope.md R10) -/

/-- `rgb(c) = c[23:0]`. -/
def rgbOf (c : Word) : Rgb := c.extractLsb' 0 24

/-- Bits 31:24: the alpha of a colour, the code of a fixed-table entry (10_state.md R39). -/
def alphaOf (c : Word) : Byte := c.extractLsb' 24 8

/-- R, bits 7:0 of a 24-bit colour. -/
def redOf (x : Rgb) : Byte := x.extractLsb' 0 8

/-- G, bits 15:8 of a 24-bit colour. -/
def greenOf (x : Rgb) : Byte := x.extractLsb' 8 8

/-- B, bits 23:16 of a 24-bit colour. -/
def blueOf (x : Rgb) : Byte := x.extractLsb' 16 8

/-- Alpha below 128: transparent, and the sentinel of a colour list (42_color_index_mapper.md R191,
20_memory.md R73). -/
def transparent (c : Word) : Bool := decide ((alphaOf c).toNat < Config.alphaThreshold.toNat)

/-! ## Byte ranges (20_memory.md R74, R80) -/

/-- The byte range `[base, base + len)`. -/
structure ByteRange where
  base : Word
  len : Nat
deriving DecidableEq, Repr

/-- `inRange(a, len)`: an empty range is always in range, and no sum wraps (20_memory.md R74). -/
abbrev inRange (s : State) (r : ByteRange) : Prop := r.len = 0 ∨ r.base.toNat + r.len ≤ s.memSize

/-- The range check of a command: `raise Err(BOUNDS, a, min(len, 0xFFFFFFFF))` (20_memory.md R74). -/
def checkRange (s : State) (r : ByteRange) : Except Err Unit :=
  if inRange s r then .ok () else .error ⟨.bounds, r.base, clipWord r.len⟩

/-- Two ranges overlap: both are non-empty and each starts before the other ends (20_memory.md R80). -/
abbrev overlaps (p q : ByteRange) : Prop :=
  0 < p.len ∧ 0 < q.len ∧ p.base.toNat < q.base.toNat + q.len ∧ q.base.toNat < p.base.toNat + p.len

/-- The first range of a list, in its order, that a write range overlaps. -/
def firstOverlap (w : ByteRange) (rs : List ByteRange) : Option ByteRange :=
  rs.find? fun r => decide (overlaps w r)

/-- The overlap check (20_memory.md R80): `raise Err(OVERLAP, w, r)` for the first overlapping write range,
OUT_PTR's before COL_PTR's, and the first range it overlaps, in the order of `reads` (frame, fixed table)
and then the COL_PTR range. -/
def checkOverlap (out col : ByteRange) (reads : List ByteRange) : Except Err Unit :=
  match firstOverlap out (reads ++ [col]) with
  | some r => .error ⟨.overlap, out.base, r.base⟩
  | none =>
    match firstOverlap col reads with
    | some r => .error ⟨.overlap, col.base, r.base⟩
    | none => .ok ()

/-! ## Frames and windows (20_memory.md R72, 43_tile_encoder.md R222) -/

/-- The range a frame of W × H pixels occupies, `[fb, fb + 4*W*H)` (20_memory.md R72). -/
def frameRange (fb : Word) (w h : Nat) : ByteRange := ⟨fb, 4 * w * h⟩

/-- `pixel(x, y) = MemRead(fb + 4*(y*W + x), 4)` (20_memory.md R72). -/
def pixel (s : State) (fb : Word) (w x y : Nat) : Word := s.buf.readWord (fb.toNat + 4 * (y * w + x))

/-- The T × T pixels of tile (tx, ty), row by row from the top, each row from the left
(43_tile_encoder.md R222). -/
def window (s : State) (fb : Word) (w edge tx ty : Nat) : List (List Word) :=
  (List.range edge).map fun y => (List.range edge).map fun x => pixel s fb w (tx * edge + x) (ty * edge + y)

/-! ## The LUT and the fixed table (10_state.md R39, R41) -/

/-- LUT[1..LUT_N], slot 1 first. -/
def lutColors (s : State) : List Rgb := s.lut.toList.take s.lutN.toNat

/-- LUT[k] for a slot k; slot 0 has no storage and gives 0 (10_state.md R41). -/
def lutSlot (s : State) (k : Nat) : Rgb := if k = 0 then 0#24 else s.lut.toList.getD (k - 1) 0#24

/-- The range of the fixed table, `[FIX_BASE, FIX_BASE + 4*FIX_COUNT)` (10_state.md R39). -/
def fixRange (s : State) : ByteRange := ⟨s.fixBase, 4 * s.fixCount.toNat⟩

/-- Entry i of the fixed table, `MemRead(FIX_BASE + 4*i, 4)` (10_state.md R39). -/
def fixEntry (s : State) (i : Nat) : Word := s.buf.readWord (s.fixBase.toNat + 4 * i)

/-- FixLookup: the index and the code of the first entry whose colour is `x` (41_color_quantizer.md R169). -/
def fixLookup (s : State) (x : Rgb) : Option (Nat × Byte) :=
  (List.range s.fixCount.toNat).findSome? fun i =>
    if rgbOf (fixEntry s i) = x then some (i, alphaOf (fixEntry s i)) else none

/-! ## Checks shared by several commands -/

/-- NO_MAP when no mapping is built (60_exceptions.md R301). -/
def checkMapped (s : State) : Except Err Unit :=
  if s.lutValid then .ok () else .error ⟨.noMap, 0#32, 0#32⟩

end Sys2Proof.Machine
end

