-- ==== Sys2Proof/Machine/Mapper.lean ====
section
/-! DEFINITION. color_index_mapper: per-pixel resolution and MAPCLR, MAPBUILD, MAPLOOK
(42_color_index_mapper.md R190 to R196). -/

namespace Sys2Proof.Machine

/-- `resolve(px)`: the slot of a pixel value, and whether it missed (42_color_index_mapper.md R191). -/
def resolve (s : State) (px : Word) : Byte × Bool :=
  if transparent px then (0#8, false)
  else
    match (lutColors s).findIdx? fun x => decide (x = rgbOf px) with
    | some i => (BitVec.ofNat 8 (i + 1), false)
    | none => (1#8, true)

/-- The opaque colours of the entries i, i+1, ... of a colour list at `cl`, `k` entries in all, after those
of `seen`: sentinels are skipped, a repeat raises DUP_COLOR with its index and colour
(42_color_index_mapper.md R193). -/
def collectColors (m : Memory) (cl : Nat) : Nat → Nat → List Rgb → Except Err (List Rgb)
  | 0, _, seen => .ok seen
  | k + 1, i, seen =>
    let e := m.readWord (cl + 4 * i)
    if transparent e then collectColors m cl k (i + 1) seen
    else if rgbOf e ∈ seen then .error ⟨.dupColor, BitVec.ofNat 32 i, (rgbOf e).setWidth 32⟩
    else collectColors m cl k (i + 1) (seen ++ [rgbOf e])

/-- The body of MAPBUILD: BOUNDS, then DUP_COLOR at the first duplicate, then COLOR_LIMIT
(42_color_index_mapper.md R193, 60_exceptions.md R303). -/
def buildBody (cl n : Word) (s : State) : Except Err State := do
  checkRange s ⟨cl, 4 * n.toNat⟩
  let colors ← collectColors s.buf cl.toNat n.toNat 0 []
  if maxEff s < colors.length then
    throw ⟨.colorLimit, BitVec.ofNat 32 colors.length, BitVec.ofNat 32 (maxEff s)⟩
  return setLut colors s

/-- The body of MAPLOOK (42_color_index_mapper.md R194). -/
def lookBody (px : Word) (s : State) : Except Err State := do
  checkMapped s
  let warned := if (resolve s px).2 then warn px s else s
  return setResult ((resolve s px).1.setWidth 32) warned

/-- MAPCLR (42_color_index_mapper.md R192). -/
def execMapclr (s : State) : Host.Outcome State Fault Refusal :=
  complete s (.ok (clearLut s))

/-- MAPBUILD (42_color_index_mapper.md R193). -/
def execMapbuild (cl n : Word) (s : State) : Host.Outcome State Fault Refusal :=
  complete s (buildBody cl n s)

/-- MAPLOOK (42_color_index_mapper.md R194). -/
def execMaplook (px : Word) (s : State) : Host.Outcome State Fault Refusal :=
  complete s (lookBody px s)

end Sys2Proof.Machine
end

