-- ==== Sys2Proof/Machine/Quantizer.lean ====
section
/-! DEFINITION. color_quantizer: the arithmetic functions and QSNAP, QTON, QEXP, QFIX
(41_color_quantizer.md R160 to R171). -/

namespace Sys2Proof.Machine

/-- m = 2^b - 1, the greatest code of depth b (41_color_quantizer.md R160). -/
def maxCode (b : Nat) : Nat := 2 ^ b - 1

/-- toNBit in its exact integer form (41_color_quantizer.md R160). -/
def toNBit (v b : Nat) : Nat := (2 * v * maxCode b + 255) / 510

/-- expand in its exact integer form (41_color_quantizer.md R161). -/
def expand (n b : Nat) : Nat := (510 * n + maxCode b) / (2 * maxCode b)

/-- A function of one channel applied to R, G and B, alpha untouched (41_color_quantizer.md R162). -/
def mapChannels (f : Byte → Byte) (c : Word) : Word :=
  alphaOf c ++ f (blueOf (rgbOf c)) ++ f (greenOf (rgbOf c)) ++ f (redOf (rgbOf c))

/-- toNBit of a channel, as a byte. -/
def codeByte (b : Nat) (v : Byte) : Byte := BitVec.ofNat 8 (toNBit v.toNat b)

/-- expand of a code, as a byte. -/
def expandByte (b : Nat) (n : Byte) : Byte := BitVec.ofNat 8 (expand n.toNat b)

/-- snap(c, b): every channel to its code and back (41_color_quantizer.md R162). -/
def snap (c : Word) (b : Nat) : Word := mapChannels (fun v => expandByte b (codeByte b v)) c

/-- One of the three codes of QEXP does not fit in b bits (41_color_quantizer.md R168). -/
def codeTooWide (b : Nat) (w : Word) : Bool :=
  [redOf (rgbOf w), greenOf (rgbOf w), blueOf (rgbOf w)].any fun n => decide (maxCode b < n.toNat)

/-- The body of QEXP (41_color_quantizer.md R168). -/
def expandBody (b : Nat) (w : Word) (s : State) : Except Err State :=
  if codeTooWide b w then .error ⟨.range, w, BitVec.ofNat 32 (2 ^ b)⟩
  else .ok (setResult (mapChannels (expandByte b) w) s)

/-- RESULT of QFIX: FOUND in bit 31, the entry's index in 15:8, its code in 7:0; 0 when the colour is not a
member (41_color_quantizer.md R170). -/
def fixResult : Option (Nat × Byte) → Word
  | some (i, k) => 1#1 ++ 0#15 ++ BitVec.ofNat 8 i ++ k
  | none => 0#32

/-- The body of QFIX; alpha of the operand is ignored (41_color_quantizer.md R170). -/
def fixBody (c : Word) (s : State) : Except Err State := do
  checkRange s (fixRange s)
  return setResult (fixResult (fixLookup s (rgbOf c))) s

/-- QSNAP (41_color_quantizer.md R166). -/
def execQsnap (b : BitVec 4) (c : Word) (s : State) : Host.Outcome State Fault Refusal :=
  complete s (.ok (setResult (snap c b.toNat) s))

/-- QTON (41_color_quantizer.md R167). -/
def execQton (b : BitVec 4) (c : Word) (s : State) : Host.Outcome State Fault Refusal :=
  complete s (.ok (setResult (mapChannels (codeByte b.toNat) c) s))

/-- QEXP (41_color_quantizer.md R168). -/
def execQexp (b : BitVec 4) (codes : Word) (s : State) : Host.Outcome State Fault Refusal :=
  complete s (expandBody b.toNat codes s)

/-- QFIX (41_color_quantizer.md R170). -/
def execQfix (c : Word) (s : State) : Host.Outcome State Fault Refusal :=
  complete s (fixBody c s)

end Sys2Proof.Machine
end

