-- ==== Sys2Proof/Machine/Palette.lean ====
section
/-! DEFINITION. palette_serializer: the five layouts and PAL in each of its six variants
(44_palette_serializer.md R270 to R280). -/

namespace Sys2Proof.Machine

/-- S, the number of slots of the buffer (44_palette_serializer.md R271). -/
def slotCount : SlotCount → Nat
  | .s4 => 4
  | .s16 => 16
  | .s256 => 256

/-- E, the bytes of a slot (44_palette_serializer.md R271). -/
def bytesPerSlot : PalFormat → Nat
  | .sms | .fixed => 1
  | .gen | .genHf | .bgr555 | .msx2 => 2

/-- r_b, the code of R at depth b (44_palette_serializer.md R272). -/
def redCode (b : Nat) (x : Rgb) : Byte := codeByte b (redOf x)

/-- g_b, the code of G at depth b (44_palette_serializer.md R272). -/
def greenCode (b : Nat) (x : Rgb) : Byte := codeByte b (greenOf x)

/-- b_b, the code of B at depth b (44_palette_serializer.md R272). -/
def blueCode (b : Nat) (x : Rgb) : Byte := codeByte b (blueOf x)

/-- The SMS byte: R in bits 1:0, G in 3:2, B in 5:4 (44_palette_serializer.md R276). -/
def smsByte (x : Rgb) : Byte := redCode 2 x ||| (greenCode 2 x <<< 2) ||| (blueCode 2 x <<< 4)

/-- The low GEN byte: R in bits 3:1, G in 7:5 (44_palette_serializer.md R277). -/
def genLow (x : Rgb) : Byte := (redCode 3 x <<< 1) ||| (greenCode 3 x <<< 5)

/-- The high GEN byte: B in bits 3:1 (44_palette_serializer.md R277). -/
def genHigh (x : Rgb) : Byte := blueCode 3 x <<< 1

/-- byte0 of BGR555 (44_palette_serializer.md R278). -/
def bgrByte0 (x : Rgb) : Byte := ((greenCode 5 x &&& 0x7#8) <<< 5) ||| redCode 5 x

/-- byte1 of BGR555 (44_palette_serializer.md R278). -/
def bgrByte1 (x : Rgb) : Byte := (blueCode 5 x <<< 2) ||| ((greenCode 5 x >>> 3) &&& 0x3#8)

/-- byte0 of MSX2 (44_palette_serializer.md R279). -/
def msxByte0 (x : Rgb) : Byte := (redCode 3 x <<< 4) ||| greenCode 3 x

/-- byte1 of MSX2 (44_palette_serializer.md R279). -/
def msxByte1 (x : Rgb) : Byte := blueCode 3 x <<< 4

/-- `slotBytes` of FIXED: the table's code, or NOT_IN_PALETTE with the slot and the colour
(44_palette_serializer.md R280). -/
def fixedSlotBytes (s : State) (slot : Nat) (x : Rgb) : Except Err (List Byte) :=
  match fixLookup s x with
  | some (_, k) => .ok [k]
  | none => .error ⟨.notInPalette, BitVec.ofNat 32 slot, x.setWidth 32⟩

/-- `slotBytes(pf, hf, s, x)` (44_palette_serializer.md R276 to R280). -/
def slotBytes (format : PalFormat) (s : State) (slot : Nat) (x : Rgb) : Except Err (List Byte) :=
  match format with
  | .sms => .ok [smsByte x]
  | .gen => .ok [genLow x, genHigh x]
  | .genHf => .ok [genHigh x, genLow x]
  | .bgr555 => .ok [bgrByte0 x, bgrByte1 x]
  | .msx2 => .ok [msxByte0 x, msxByte1 x]
  | .fixed => fixedSlotBytes s slot x

/-- The bytes of the slots `slot`, `slot` + 1, ... that hold the colours given, in increasing slot order
(44_palette_serializer.md R273). -/
def serializeSlots (format : PalFormat) (s : State) : Nat → List Rgb → Except Err (List Byte)
  | _, [] => .ok []
  | slot, x :: rest => do
    let bs ← slotBytes format s slot x
    let more ← serializeSlots format s (slot + 1) rest
    return bs ++ more

/-- The OUT_PTR range of PAL, S·E bytes (44_palette_serializer.md R273). -/
def palRange (format : PalFormat) (slots : SlotCount) (s : State) : ByteRange :=
  ⟨s.outPtr, slotCount slots * bytesPerSlot format⟩

/-- FIXED also checks the fixed table's range, and that the output does not overlap it
(44_palette_serializer.md R273). -/
def checkPalTable (format : PalFormat) (slots : SlotCount) (s : State) : Except Err Unit :=
  if format = .fixed then do
    checkRange s (fixRange s)
    checkOverlap (palRange format slots s) ⟨s.colPtr, 0⟩ [fixRange s]
  else .ok ()

/-- The buffer: E zero bytes for slot 0, the mapping's slots, zero padding to S slots
(44_palette_serializer.md R270). -/
def paletteBuffer (format : PalFormat) (slots : SlotCount) (s : State) (used : List Byte) : List Byte :=
  List.replicate (bytesPerSlot format) 0#8 ++ used ++
    List.replicate ((slotCount slots - (s.lutN.toNat + 1)) * bytesPerSlot format) 0#8

/-- The body of PAL (44_palette_serializer.md R273). -/
def palBody (format : PalFormat) (slots : SlotCount) (s : State) : Except Err State := do
  checkMapped s
  if slotCount slots < s.lutN.toNat + 1 then
    throw ⟨.range, BitVec.ofNat 32 (s.lutN.toNat + 1), BitVec.ofNat 32 (slotCount slots)⟩
  checkRange s (palRange format slots s)
  checkPalTable format slots s
  let used ← serializeSlots format s 1 (lutColors s)
  return putOut (paletteBuffer format slots s used) s

/-- PAL, 1-byte CRAM, R276 (44_palette_serializer.md R273). -/
def execPalSms (slots : SlotCount) (s : State) : Host.Outcome State Fault Refusal :=
  complete s (palBody .sms slots s)

/-- PAL, 2-byte CRAM, low byte first, R277 (44_palette_serializer.md R273). -/
def execPalGen (slots : SlotCount) (s : State) : Host.Outcome State Fault Refusal :=
  complete s (palBody .gen slots s)

/-- PAL, little-endian BGR555, R278 (44_palette_serializer.md R273). -/
def execPalBgr555 (slots : SlotCount) (s : State) : Host.Outcome State Fault Refusal :=
  complete s (palBody .bgr555 slots s)

/-- PAL, palette-register bytes, R279 (44_palette_serializer.md R273). -/
def execPalMsx2 (slots : SlotCount) (s : State) : Host.Outcome State Fault Refusal :=
  complete s (palBody .msx2 slots s)

/-- PAL, fixed table lookup, R280 (44_palette_serializer.md R273). -/
def execPalFixed (slots : SlotCount) (s : State) : Host.Outcome State Fault Refusal :=
  complete s (palBody .fixed slots s)

/-- PAL, 2-byte CRAM, high byte first, R277 (44_palette_serializer.md R273). -/
def execPalGenHf (slots : SlotCount) (s : State) : Host.Outcome State Fault Refusal :=
  complete s (palBody .genHf slots s)

end Sys2Proof.Machine
end

