-- ==== Sys2Proof/Machine/StreamControl.lean ====
section
/-! DEFINITION. Stream control: END, NOP and SETOUT (40_stream_control.md R141 to R143). -/

namespace Sys2Proof.Machine

/-- END: DONE <- 1, BUSY <- 0, then the common advance (40_stream_control.md R141). -/
def execEndStream (s : State) : Host.Outcome State Fault Refusal :=
  complete s (.ok (finishStream s))

/-- NOP: nothing but the common advance (40_stream_control.md R142). -/
def execNop (s : State) : Host.Outcome State Fault Refusal :=
  complete s (.ok s)

/-- SETOUT: OUT_PTR and COL_PTR, not range-checked here (40_stream_control.md R143). -/
def execSetout (out col : Word) (s : State) : Host.Outcome State Fault Refusal :=
  complete s (.ok (setPointers out col s))

end Sys2Proof.Machine
end

