-- ==== Sys2Proof/Machine/TileLayouts.lean ====
section
/-! DEFINITION. The tile layouts as pure functions of the slot matrix, given as its rows from the top, each
row from the left (43_tile_encoder.md R221, R224 to R227, R230 to R237). -/

namespace Sys2Proof.Machine

/-- T, the tile edge: 16 for MONO1 with T16, and 8 otherwise (43_tile_encoder.md R221). -/
def tileEdge : TileLayout → Nat
  | .mono1T16 | .mono1T16Rows => 16
  | .planar2 | .inter2 | .nib4h | .nib4l | .bp4 | .lin8 | .mono1 => 8

/-- The format is MONO1 (43_tile_encoder.md R236, R237). -/
def isMono : TileLayout → Bool
  | .mono1 | .mono1T16 | .mono1T16Rows => true
  | .planar2 | .inter2 | .nib4h | .nib4l | .bp4 | .lin8 => false

/-- Bits per pixel (43_tile_encoder.md R224). -/
def bitsPerPixel : TileLayout → Nat
  | .planar2 | .inter2 => 2
  | .nib4h | .nib4l | .bp4 => 4
  | .lin8 => 8
  | .mono1 | .mono1T16 | .mono1T16Rows => 1

/-- `plen`, the pattern bytes of a tile (43_tile_encoder.md R225). -/
def patternLength : TileLayout → Nat
  | .planar2 | .inter2 => 16
  | .nib4h | .nib4l | .bp4 => 32
  | .lin8 => 64
  | .mono1 => 8
  | .mono1T16 | .mono1T16Rows => 32

/-- `clen`, the colour bytes of a tile: T for MONO1, one per row, and 0 otherwise (43_tile_encoder.md
R225). -/
def colorLength (layout : TileLayout) : Nat := if isMono layout then tileEdge layout else 0

/-- `rowbits`: eight bits as a byte, the leftmost in bit 7 (43_tile_encoder.md R226). -/
def rowByte (bits : List Bool) : Byte :=
  bits.foldl (fun acc b => (acc <<< 1) ||| (BitVec.ofBool b).setWidth 8) 0#8

/-- `plane(k, y, 0)` of the window row `row` (43_tile_encoder.md R227). -/
def planeByte (k : Nat) (row : List Byte) : Byte := rowByte (row.map fun slot => slot.getLsbD k)

/-- `mrow`: the opacity bits of eight pixels of a row from column `x0` on (43_tile_encoder.md R236, R237). -/
def maskByte (x0 : Nat) (row : List Byte) : Byte :=
  rowByte (((row.drop x0).take 8).map fun slot => decide (slot ≠ 0#8))

/-- Horizontally adjacent pairs: columns (0,1), (2,3), ... (43_tile_encoder.md R232). -/
def adjacentPairs : List Byte → List (Byte × Byte)
  | left :: right :: rest => (left, right) :: adjacentPairs rest
  | _ => []

/-- Two slots below 16 in one byte, `(high << 4) | low` (43_tile_encoder.md R232, R233). -/
def nibbleByte (high low : Byte) : Byte := (high <<< 4) ||| low

/-- Two interleaved planes: per row, plane `low` and then plane `high` (43_tile_encoder.md R231, R234). -/
def interleavedPlanes (low high : Nat) (rows : List (List Byte)) : List Byte :=
  rows.flatMap fun row => [planeByte low row, planeByte high row]

/-- One 8×8 block of a 16×16 window, its top left pixel at (x0, y0) (43_tile_encoder.md R237). -/
def maskBlock (x0 y0 : Nat) (rows : List (List Byte)) : List Byte :=
  ((rows.drop y0).take 8).map (maskByte x0)

/-- The pattern bytes `pat` of a layout (43_tile_encoder.md R230 to R237). -/
def patternBytes (layout : TileLayout) (rows : List (List Byte)) : List Byte :=
  match layout with
  | .planar2 => rows.map (planeByte 0) ++ rows.map (planeByte 1)
  | .inter2 => interleavedPlanes 0 1 rows
  | .nib4h => rows.flatMap fun row => (adjacentPairs row).map fun p => nibbleByte p.1 p.2
  | .nib4l => rows.flatMap fun row => (adjacentPairs row).map fun p => nibbleByte p.2 p.1
  | .bp4 => interleavedPlanes 0 1 rows ++ interleavedPlanes 2 3 rows
  | .lin8 => rows.flatMap id
  | .mono1 => rows.map (maskByte 0)
  | .mono1T16 => maskBlock 0 0 rows ++ maskBlock 0 8 rows ++ maskBlock 8 0 rows ++ maskBlock 8 8 rows
  | .mono1T16Rows => rows.flatMap fun row => [maskByte 0 row, maskByte 8 row]

/-- The colour bytes `col`: `(fg << 4) | 0` for each row of a MONO1 tile (43_tile_encoder.md R236, R237). -/
def colorBytes (layout : TileLayout) (fg : Byte) : List Byte :=
  List.replicate (colorLength layout) ((fg <<< 4) ||| 0#8)

end Sys2Proof.Machine
end

