-- ==== Sys2Proof/Machine/Tile.lean ====
section
/-! DEFINITION. The commands TILE and FRAME in each of their nine variants, over one encode function
(43_tile_encoder.md R220 to R224, R228, R238, R240 to R243). -/

namespace Sys2Proof.Machine

/-! ## One tile -/

/-- What encoding yields: the pattern bytes, the colour bytes and the pixel values that missed, each in
order (43_tile_encoder.md R238). -/
structure Encoded where
  pat : List Byte
  col : List Byte
  misses : List Word
deriving DecidableEq, Repr

/-- The slot matrix P of a window, row by row (43_tile_encoder.md R223). -/
def slotRows (s : State) (win : List (List Word)) : List (List Byte) :=
  win.map fun row => row.map fun px => (resolve s px).1

/-- The misses of a window in row-major order (43_tile_encoder.md R223). -/
def missesOf (s : State) (win : List (List Word)) : List Word :=
  win.flatMap fun row => row.filter fun px => (resolve s px).2

/-- RANGE for the first slot, in row-major order, that needs more than bpp bits; MONO1 has none
(43_tile_encoder.md R224). -/
def checkSlots (layout : TileLayout) (rows : List (List Byte)) : Except Err Unit :=
  if isMono layout then .ok ()
  else
    match (rows.flatMap id).find? fun slot => decide (2 ^ bitsPerPixel layout ≤ slot.toNat) with
    | some slot => .error ⟨.range, slot.setWidth 32, BitVec.ofNat 32 (2 ^ bitsPerPixel layout)⟩
    | none => .ok ()

/-- `fgIndex()`: the fixed-table code of slot 1's colour, 0 for an empty mapping (43_tile_encoder.md
R228). -/
def foreground (s : State) : Except Err Byte :=
  if s.lutN = 0#8 then .ok 0#8
  else
    match fixLookup s (lutSlot s 1) with
    | none => .error ⟨.notInPalette, 1#32, (lutSlot s 1).setWidth 32⟩
    | some (_, k) => if 15 < k.toNat then .error ⟨.range, k.setWidth 32, 16#32⟩ else .ok k

/-- The foreground a layout's colour bytes need: none but MONO1 has any (43_tile_encoder.md R238). -/
def layoutForeground (layout : TileLayout) (s : State) : Except Err Byte :=
  if isMono layout then foreground s else .ok 0#8

/-- `encodeTile` of the window (tx, ty): the slot range check, then the foreground, then the layout
(43_tile_encoder.md R238). It writes nothing. -/
def encodeTile (layout : TileLayout) (fb : Word) (w tx ty : Nat) (s : State) : Except Err Encoded := do
  let win := window s fb w (tileEdge layout) tx ty
  checkSlots layout (slotRows s win)
  let fg ← layoutForeground layout s
  return ⟨patternBytes layout (slotRows s win), colorBytes layout fg, missesOf s win⟩

/-! ## The commands' shared checks and effects -/

/-- `needFix`: MONO1 with a non-empty mapping reads the fixed table (43_tile_encoder.md R240). -/
def needsFixedTable (layout : TileLayout) (s : State) : Bool := isMono layout && decide (1 ≤ s.lutN.toNat)

/-- The OUT_PTR range of a command that writes `n` tiles (43_tile_encoder.md R240, R241). -/
def tileOutRange (layout : TileLayout) (n : Nat) (s : State) : ByteRange := ⟨s.outPtr, n * patternLength layout⟩

/-- The COL_PTR range of a command that writes `n` tiles (43_tile_encoder.md R240, R241). -/
def tileColRange (layout : TileLayout) (n : Nat) (s : State) : ByteRange := ⟨s.colPtr, n * colorLength layout⟩

/-- The read ranges, in the order frame, fixed table (20_memory.md R80). -/
def tileReads (layout : TileLayout) (fb : Word) (w h : Nat) (s : State) : List ByteRange :=
  frameRange fb w h :: if needsFixedTable layout s then [fixRange s] else []

/-- The BOUNDS checks in the order frame, output, colour output, fixed table, and then the overlap check
(43_tile_encoder.md R240, 60_exceptions.md R303). -/
def checkTileRanges (layout : TileLayout) (fb : Word) (w h n : Nat) (s : State) : Except Err Unit := do
  checkRange s (frameRange fb w h)
  checkRange s (tileOutRange layout n s)
  checkRange s (tileColRange layout n s)
  if needsFixedTable layout s then checkRange s (fixRange s)
  checkOverlap (tileOutRange layout n s) (tileColRange layout n s) (tileReads layout fb w h s)

/-- The writes of TILE and FRAME: the pattern bytes at OUT_PTR, the colour bytes at COL_PTR, one warning per
miss, both pointers advanced (43_tile_encoder.md R240, R241). -/
def emit (e : Encoded) (s : State) : State := warnAll e.misses (putCol e.col (putOut e.pat s))

/-! ## TILE (43_tile_encoder.md R240) -/

/-- RANGE when the tile is not inside the frame; the info words are W3 and W2. -/
def checkInside (layout : TileLayout) (w h tx ty : Half) : Except Err Unit :=
  if w.toNat < (tx.toNat + 1) * tileEdge layout ∨ h.toNat < (ty.toNat + 1) * tileEdge layout then
    .error ⟨.range, ty ++ tx, h ++ w⟩
  else .ok ()

/-- The body of TILE. -/
def tileBody (layout : TileLayout) (fb : Word) (w h tx ty : Half) (s : State) : Except Err State := do
  checkInside layout w h tx ty
  checkMapped s
  checkTileRanges layout fb w.toNat h.toNat 1 s
  let e ← encodeTile layout fb w.toNat tx.toNat ty.toNat s
  return emit e s

/-! ## FRAME (43_tile_encoder.md R241, R242) -/

/-- A dimension that fails: 0, or not a multiple of T (43_tile_encoder.md R242). -/
def dimensionFails (v edge : Nat) : Bool := decide (v = 0) || decide (v % edge ≠ 0)

/-- The suggested value: T for 0, else the next multiple of T, or the previous one where the next does not
fit in 16 bits (43_tile_encoder.md R242). -/
def suggest (v edge : Nat) : Nat :=
  if v = 0 then edge
  else if (v + edge - 1) / edge * edge ≤ Config.halfMax then (v + edge - 1) / edge * edge
  else v / edge * edge

/-- The suggestion of one axis, 0 for an axis that passes (43_tile_encoder.md R242). -/
def axisSuggestion (v edge : Nat) : Half :=
  if dimensionFails v edge then BitVec.ofNat 16 (suggest v edge) else 0#16

/-- The dimension check (43_tile_encoder.md R242). -/
def checkDimensions (layout : TileLayout) (w h : Half) : Except Err Unit :=
  let fw := dimensionFails w.toNat (tileEdge layout)
  let fh := dimensionFails h.toNat (tileEdge layout)
  if fw || fh then
    .error ⟨.dimension, 0#30 ++ BitVec.ofBool fh ++ BitVec.ofBool fw,
      axisSuggestion h.toNat (tileEdge layout) ++ axisSuggestion w.toNat (tileEdge layout)⟩
  else .ok ()

/-- The tiles (tx, ty) of a frame, left to right and top to bottom (43_tile_encoder.md R241, R243). -/
def tileCoords (nx ny : Nat) : List (Nat × Nat) :=
  (List.range ny).flatMap fun ty => (List.range nx).map fun tx => (tx, ty)

/-- The tiles encoded in order, their outputs concatenated; the first tile that raises decides
(43_tile_encoder.md R241). -/
def encodeTiles (layout : TileLayout) (fb : Word) (w : Nat) (s : State) :
    List (Nat × Nat) → Except Err Encoded
  | [] => .ok ⟨[], [], []⟩
  | (tx, ty) :: rest => do
    let e ← encodeTile layout fb w tx ty s
    let r ← encodeTiles layout fb w s rest
    return ⟨e.pat ++ r.pat, e.col ++ r.col, e.misses ++ r.misses⟩

/-- nx = W div T or ny = H div T, the tiles of a frame along one axis (43_tile_encoder.md R241). -/
def tilesAlong (layout : TileLayout) (v : Half) : Nat := v.toNat / tileEdge layout

/-- The body of FRAME. -/
def frameBody (layout : TileLayout) (fb : Word) (w h : Half) (s : State) : Except Err State := do
  checkDimensions layout w h
  checkMapped s
  checkTileRanges layout fb w.toNat h.toNat (tilesAlong layout w * tilesAlong layout h) s
  let e ← encodeTiles layout fb w.toNat s (tileCoords (tilesAlong layout w) (tilesAlong layout h))
  return emit e s

/-! ## The eighteen meanings -/

/-- TILE, 2bpp planar, R230 (43_tile_encoder.md R240). -/
def execTilePlanar2 (fb : Word) (w h tx ty : Half) (s : State) : Host.Outcome State Fault Refusal :=
  complete s (tileBody .planar2 fb w h tx ty s)

/-- TILE, 2bpp interleaved, R231 (43_tile_encoder.md R240). -/
def execTileInter2 (fb : Word) (w h tx ty : Half) (s : State) : Host.Outcome State Fault Refusal :=
  complete s (tileBody .inter2 fb w h tx ty s)

/-- TILE, 4bpp high nibble first, R232 (43_tile_encoder.md R240). -/
def execTileNib4h (fb : Word) (w h tx ty : Half) (s : State) : Host.Outcome State Fault Refusal :=
  complete s (tileBody .nib4h fb w h tx ty s)

/-- TILE, 4bpp low nibble first, R233 (43_tile_encoder.md R240). -/
def execTileNib4l (fb : Word) (w h tx ty : Half) (s : State) : Host.Outcome State Fault Refusal :=
  complete s (tileBody .nib4l fb w h tx ty s)

/-- TILE, 4bpp bitplane-interleaved, R234 (43_tile_encoder.md R240). -/
def execTileBp4 (fb : Word) (w h tx ty : Half) (s : State) : Host.Outcome State Fault Refusal :=
  complete s (tileBody .bp4 fb w h tx ty s)

/-- TILE, 8bpp linear, R235 (43_tile_encoder.md R240). -/
def execTileLin8 (fb : Word) (w h tx ty : Half) (s : State) : Host.Outcome State Fault Refusal :=
  complete s (tileBody .lin8 fb w h tx ty s)

/-- TILE, 1bpp, 8×8, R236 (43_tile_encoder.md R240). -/
def execTileMono1 (fb : Word) (w h tx ty : Half) (s : State) : Host.Outcome State Fault Refusal :=
  complete s (tileBody .mono1 fb w h tx ty s)

/-- TILE, 1bpp, 16×16 in quadrant order, R237 (43_tile_encoder.md R240). -/
def execTileMono1T16 (fb : Word) (w h tx ty : Half) (s : State) : Host.Outcome State Fault Refusal :=
  complete s (tileBody .mono1T16 fb w h tx ty s)

/-- TILE, 1bpp, 16×16 in row-pair order, R237 (43_tile_encoder.md R240). -/
def execTileMono1T16Rows (fb : Word) (w h tx ty : Half) (s : State) : Host.Outcome State Fault Refusal :=
  complete s (tileBody .mono1T16Rows fb w h tx ty s)

/-- FRAME, 2bpp planar, R230 (43_tile_encoder.md R241). -/
def execFramePlanar2 (fb : Word) (w h : Half) (s : State) : Host.Outcome State Fault Refusal :=
  complete s (frameBody .planar2 fb w h s)

/-- FRAME, 2bpp interleaved, R231 (43_tile_encoder.md R241). -/
def execFrameInter2 (fb : Word) (w h : Half) (s : State) : Host.Outcome State Fault Refusal :=
  complete s (frameBody .inter2 fb w h s)

/-- FRAME, 4bpp high nibble first, R232 (43_tile_encoder.md R241). -/
def execFrameNib4h (fb : Word) (w h : Half) (s : State) : Host.Outcome State Fault Refusal :=
  complete s (frameBody .nib4h fb w h s)

/-- FRAME, 4bpp low nibble first, R233 (43_tile_encoder.md R241). -/
def execFrameNib4l (fb : Word) (w h : Half) (s : State) : Host.Outcome State Fault Refusal :=
  complete s (frameBody .nib4l fb w h s)

/-- FRAME, 4bpp bitplane-interleaved, R234 (43_tile_encoder.md R241). -/
def execFrameBp4 (fb : Word) (w h : Half) (s : State) : Host.Outcome State Fault Refusal :=
  complete s (frameBody .bp4 fb w h s)

/-- FRAME, 8bpp linear, R235 (43_tile_encoder.md R241). -/
def execFrameLin8 (fb : Word) (w h : Half) (s : State) : Host.Outcome State Fault Refusal :=
  complete s (frameBody .lin8 fb w h s)

/-- FRAME, 1bpp, 8×8, R236 (43_tile_encoder.md R241). -/
def execFrameMono1 (fb : Word) (w h : Half) (s : State) : Host.Outcome State Fault Refusal :=
  complete s (frameBody .mono1 fb w h s)

/-- FRAME, 1bpp, 16×16 in quadrant order, R237 (43_tile_encoder.md R241). -/
def execFrameMono1T16 (fb : Word) (w h : Half) (s : State) : Host.Outcome State Fault Refusal :=
  complete s (frameBody .mono1T16 fb w h s)

/-- FRAME, 1bpp, 16×16 in row-pair order, R237 (43_tile_encoder.md R241). -/
def execFrameMono1T16Rows (fb : Word) (w h : Half) (s : State) : Host.Outcome State Fault Refusal :=
  complete s (frameBody .mono1T16Rows fb w h s)

end Sys2Proof.Machine
end

