-- ==== Sys2Proof/Machine/Dispatch.lean ====
section
/-! DEFINITION. The dispatch: one arm per constructor of Instr, each one direct call of its meaning. -/

namespace Sys2Proof.Machine

/-- Executing one decoded command, the common advance or the abort included (40_stream_control.md R140). -/
def exec (i : Instr) (s : State) : Host.Outcome State Fault Refusal :=
  match i with
  | .endStream => Sys2Proof.Machine.execEndStream s
  | .nop => Sys2Proof.Machine.execNop s
  | .setout out col => Sys2Proof.Machine.execSetout out col s
  | .qsnap b c => Sys2Proof.Machine.execQsnap b c s
  | .qton b c => Sys2Proof.Machine.execQton b c s
  | .qexp b codes => Sys2Proof.Machine.execQexp b codes s
  | .qfix c => Sys2Proof.Machine.execQfix c s
  | .mapclr => Sys2Proof.Machine.execMapclr s
  | .mapbuild cl n => Sys2Proof.Machine.execMapbuild cl n s
  | .maplook px => Sys2Proof.Machine.execMaplook px s
  | .tilePlanar2 fb w h tx ty => Sys2Proof.Machine.execTilePlanar2 fb w h tx ty s
  | .tileInter2 fb w h tx ty => Sys2Proof.Machine.execTileInter2 fb w h tx ty s
  | .tileNib4h fb w h tx ty => Sys2Proof.Machine.execTileNib4h fb w h tx ty s
  | .tileNib4l fb w h tx ty => Sys2Proof.Machine.execTileNib4l fb w h tx ty s
  | .tileBp4 fb w h tx ty => Sys2Proof.Machine.execTileBp4 fb w h tx ty s
  | .tileLin8 fb w h tx ty => Sys2Proof.Machine.execTileLin8 fb w h tx ty s
  | .tileMono1 fb w h tx ty => Sys2Proof.Machine.execTileMono1 fb w h tx ty s
  | .tileMono1T16 fb w h tx ty => Sys2Proof.Machine.execTileMono1T16 fb w h tx ty s
  | .tileMono1T16Rows fb w h tx ty => Sys2Proof.Machine.execTileMono1T16Rows fb w h tx ty s
  | .framePlanar2 fb w h => Sys2Proof.Machine.execFramePlanar2 fb w h s
  | .frameInter2 fb w h => Sys2Proof.Machine.execFrameInter2 fb w h s
  | .frameNib4h fb w h => Sys2Proof.Machine.execFrameNib4h fb w h s
  | .frameNib4l fb w h => Sys2Proof.Machine.execFrameNib4l fb w h s
  | .frameBp4 fb w h => Sys2Proof.Machine.execFrameBp4 fb w h s
  | .frameLin8 fb w h => Sys2Proof.Machine.execFrameLin8 fb w h s
  | .frameMono1 fb w h => Sys2Proof.Machine.execFrameMono1 fb w h s
  | .frameMono1T16 fb w h => Sys2Proof.Machine.execFrameMono1T16 fb w h s
  | .frameMono1T16Rows fb w h => Sys2Proof.Machine.execFrameMono1T16Rows fb w h s
  | .palSms slots => Sys2Proof.Machine.execPalSms slots s
  | .palGen slots => Sys2Proof.Machine.execPalGen slots s
  | .palBgr555 slots => Sys2Proof.Machine.execPalBgr555 slots s
  | .palMsx2 slots => Sys2Proof.Machine.execPalMsx2 slots s
  | .palFixed slots => Sys2Proof.Machine.execPalFixed slots s
  | .palGenHf slots => Sys2Proof.Machine.execPalGenHf slots s

end Sys2Proof.Machine
end

