-- ==== Sys2Proof/Machine/Stream.lean ====
section
/-! DEFINITION. The step of the block: fetch, decode, execute (40_stream_control.md R140). -/

namespace Sys2Proof.Machine

/-- The range of the descriptor at CMD_PTR (30_encoding.md R100). -/
def fetchRange (s : State) : ByteRange := ⟨s.cmdPtr, Config.commandBytes⟩

/-- The four words at CMD_PTR, as every earlier command left them (30_encoding.md R100, 20_memory.md R85). -/
def fetchDescriptor (s : State) : Descriptor :=
  ⟨s.buf.readWord s.cmdPtr.toNat, s.buf.readWord (s.cmdPtr.toNat + 4),
    s.buf.readWord (s.cmdPtr.toNat + 8), s.buf.readWord (s.cmdPtr.toNat + 12)⟩

/-- CMD_PTR is a multiple of 4 (20_memory.md R75). -/
def fetchAligned (s : State) : Bool := decide (s.cmdPtr.toNat % 4 = 0)

/-- Fetch and decode: ALIGN, then BOUNDS, then ILLEGAL with W0 and the index of the first illegal word
(40_stream_control.md R140, 30_encoding.md R105, 60_exceptions.md R302, R303). -/
def fetch (s : State) : Except Err Instr := do
  if fetchAligned s = false then throw ⟨.align, s.cmdPtr, 0#32⟩
  checkRange s (fetchRange s)
  match decode (fetchDescriptor s) with
  | .error r => .error ⟨.illegal, (fetchDescriptor s).w0, r.index⟩
  | .ok i => .ok i

/-- One step of the block. While BUSY = 0 the block has no step: the state stays as it is
(40_stream_control.md R140, 60_exceptions.md R319; DESIGN CHOICE, safe, log 3). -/
def blockStep (s : State) : Host.Outcome State Fault Refusal :=
  if s.busy then
    match fetch s with
    | .error e => .next (abort e s)
    | .ok i => exec i s
  else .next s

/-- The state after `n` further steps of the block alone: the boundaries of the commands still to complete
(20_memory.md R82). -/
def blockAhead : Nat → State → State
  | 0, s => s
  | n + 1, s =>
    match blockStep s with
    | .next t => blockAhead n t
    | .fault _ => s
    | .refused _ => s

end Sys2Proof.Machine
end

