-- ==== Sys2Proof/Machine/HostPort.lean ====
section
/-! DEFINITION. The host's side: the register port (10_state.md R30 to R45), one action of the
host or the platform, and what a host may read (60_exceptions.md R330, 70_reset_and_hazards.md R340). -/

namespace Sys2Proof.Machine

/-! ## Reading registers -/

/-- A read of the LUT window at slot k: LUT[k] when LUT_VALID = 1 and 1 ≤ k ≤ LUT_N, and 0 otherwise
(10_state.md R41). -/
def lutWindow (s : State) (k : Nat) : Word :=
  if s.lutValid = true ∧ 1 ≤ k ∧ k ≤ s.lutN.toNat then (lutSlot s k).setWidth 32 else 0#32

/-- The word a register of the port holds (10_state.md R30 to R45). Reserved indices read 0 (R45). -/
def readReg (s : State) (index : Nat) : Word :=
  match index with
  | 0x000 => Config.idWord
  | 0x001 => ctrlWord s
  | 0x002 => statusWord s
  | 0x003 => s.cmdPtr
  | 0x004 => s.outPtr
  | 0x005 => s.colPtr
  | 0x006 => maxColorsWord s
  | 0x007 => s.fixBase
  | 0x008 => s.fixCount.setWidth 32
  | 0x009 => s.errA
  | 0x00A => s.errB
  | 0x00B => s.warnCount
  | 0x00C => s.warnRgba
  | 0x00D => lutStatWord s
  | 0x00E => s.result
  | _ => if 0x100 ≤ index ∧ index ≤ 0x1FF then lutWindow s (index - 0x100) else 0#32

/-! ## Writing registers -/

/-- A write of CTRL acts in this order: SRST alone; else IE; then, if idle, CLRWARN; then, if idle, GO
(10_state.md R32). -/
def writeCtrl (v : Word) (s : State) : State :=
  if v.getLsbD 3 then softReset s
  else
    let enabled := { s with ie := v.getLsbD 2 }
    if s.busy then enabled
    else
      let cleared := if v.getLsbD 1 then clearWarnings enabled else enabled
      if v.getLsbD 0 then start cleared else cleared

/-- A write of MAXCOLORS: MAX in 7:0, UNLIMITED in 31, the rest ignored (10_state.md R37). -/
def writeMaxColors (v : Word) (s : State) : State :=
  { s with maxLimit := v.extractLsb' 0 8, unlimited := v.getLsbD 31 }

/-- A write of FIX_COUNT stores `min(v, 256)` (10_state.md R38). -/
def writeFixCount (v : Word) (s : State) : State :=
  { s with fixCount := BitVec.ofNat 9 (min v.toNat Config.fixCap) }

/-- A host write of a register: CTRL at any time, the "RW when idle" registers only while BUSY = 0, every
other index ignored (10_state.md R30, R45; 60_exceptions.md R330). -/
def writeReg (index : Nat) (v : Word) (s : State) : State :=
  if index = 0x001 then writeCtrl v s
  else if s.busy then s
  else
    match index with
    | 0x003 => { s with cmdPtr := v }
    | 0x004 => { s with outPtr := v }
    | 0x005 => { s with colPtr := v }
    | 0x006 => writeMaxColors v s
    | 0x007 => { s with fixBase := v }
    | 0x008 => writeFixCount v s
    | _ => s

/-! ## One action -/

/-- A load of BUF by the host (60_exceptions.md R330): refused while busy (93_implementation_defined.md P1,
log 6), a fault outside BUF (log 12). -/
def hostLoad (base : Nat) (bytes : List Byte) (s : State) : Host.Outcome State Fault Refusal :=
  if s.busy then .refused .hostWroteBufWhileBusy
  else if base + bytes.length ≤ s.memSize then .next { s with buf := s.buf.writeBytes base bytes }
  else .fault .hostOutsideBuf

/-- One action of the host or the platform, between two commands. -/
def hostStep (act : HostAction) (s : State) : Host.Outcome State Fault Refusal :=
  match act with
  | .letRun => blockStep s
  | .writeReg index v => .next (writeReg index v s)
  | .loadBuf base bytes => hostLoad base bytes s
  | .powerOn cells => .next (powerOnReset cells s)

/-- One step of the two agents: the host's next action if it has one to come, else a step of the block
(00_scope.md R13; log 4). -/
def agentStep (s : State) : Host.Outcome State Fault Refusal :=
  match s.host with
  | [] => blockStep s
  | act :: rest => hostStep act { s with host := rest }

/-! ## What a host may read -/

/-- The values a host read of the byte at `a` may return: the byte before or after any command still to complete;
while idle, the current byte only (20_memory.md R82, 60_exceptions.md R330, 93_implementation_defined.md P3; log
7). At an address of MEM_SIZE or above, where BUF has no byte and the spec gives the read no value, every byte
(DESIGN CHOICE, safe, log 17). -/
def MayReadBuf (s : State) (a : Nat) (v : Byte) : Prop :=
  s.memSize ≤ a ∨ ∃ n, v = (blockAhead n s).buf.read a

/-- The state after `n` steps of the machine from `origin`, the step boundary number `n` of that run; a run that
stops stays where it stopped. -/
def boundary : Nat → State → State
  | 0, origin => origin
  | n + 1, origin =>
    match agentStep origin with
    | .next t => boundary n t
    | .fault _ => origin
    | .refused _ => origin

/-- From boundary `k` to boundary `n` of the run from `origin` the block is busy, so one stream runs all along:
a stream's end, an abort and a reset clear BUSY, and GO alone sets it (40_stream_control.md R140). -/
def BusySince (origin : State) (k n : Nat) : Prop :=
  ∀ j, k ≤ j → j ≤ n → (boundary j origin).busy = true

/-- The values a host read of a register may return at boundary `n` of the run from `origin`: the current value,
and while busy also what the register held at any boundary since GO (60_exceptions.md R330,
93_implementation_defined.md P5; log 7). The first busy boundary is the one GO leaves, so the run is counted from
an idle state. -/
def MayReadReg (origin : State) (n index : Nat) (v : Word) : Prop :=
  ∃ k ≤ n, (k = n ∨ BusySince origin k n) ∧ v = readReg (boundary k origin) index

/-! ## Placing a command -/

/-- A descriptor can be fetched at CMD_PTR: it is aligned and inside BUF. -/
def fetchable (s : State) : Bool := fetchAligned s && decide (inRange s (fetchRange s))

/-- The machine with the sixteen bytes stored at CMD_PTR and the stream running, no host action to come: what
a host's load and GO would leave (log 5). A CMD_PTR that cannot be fetched from becomes 0 first (log 14). -/
def placeCommand (bytes : List Byte) (s : State) : State :=
  let placed := if fetchable s then s else { s with cmdPtr := 0#32 }
  let running := if placed.busy then placed else start placed
  { running with host := [], buf := running.buf.writeBytes running.cmdPtr.toNat bytes }

end Sys2Proof.Machine
end

