-- ==== Sys2Proof/Machine/Step.lean ====
section
/-! DEFINITION. The step of the machine, and the placing of one command where the next step fetches. -/

namespace Sys2Proof.Machine

/-- One step of the machine (40_stream_control.md R140, 60_exceptions.md R330). -/
def step : State → Host.Outcome State Fault Refusal := fun s => agentStep s

/-- `s` with the instruction of the table's bits `w` where the next step fetches it, and the stream running
(logs 5 and 14). -/
def State.withFetchWord (s : State) (nbits w : Nat) : State := placeCommand (tableBytes nbits w) s

end Sys2Proof.Machine
end

