-- ==== Sys2Proof/Machine/Assembler.lean ====
section
/-! DEFINITION. The assembler syntax of the command stream, its data directives and its pseudo-instructions
(30_encoding.md R113, R114). Separators, which the rule does not name, are spaces, tabs and commas (DESIGN
CHOICE, log 13). The machine does not use this file: it is how a host writes a stream. -/

namespace Sys2Proof.Machine

/-! ## Characters and literals -/

/-- A comment starts with `;` and runs to the end of the line (30_encoding.md R113). -/
def withoutComment (line : List Char) : List Char := line.takeWhile fun c => decide (c ≠ ';')

/-- A character between two tokens. -/
def isSeparator (c : Char) : Bool := decide (c = ' ') || decide (c = ',') || decide (c = '\t')

/-- The tokens of a line; `word` holds the characters of the token begun, in reverse. -/
def splitTokens : List Char → List Char → List (List Char)
  | word, [] => if word = [] then [] else [word.reverse]
  | word, c :: rest =>
    if isSeparator c then
      if word = [] then splitTokens [] rest else word.reverse :: splitTokens [] rest
    else splitTokens (c :: word) rest

/-- The value of a digit: 0..9, a..f and A..F. -/
def digitValue (c : Char) : Option Nat :=
  if '0'.toNat ≤ c.toNat ∧ c.toNat ≤ '9'.toNat then some (c.toNat - '0'.toNat)
  else if 'a'.toNat ≤ c.toNat ∧ c.toNat ≤ 'f'.toNat then some (c.toNat - 'a'.toNat + 10)
  else if 'A'.toNat ≤ c.toNat ∧ c.toNat ≤ 'F'.toNat then some (c.toNat - 'A'.toNat + 10)
  else none

/-- Digits in a base, after a value already read. -/
def readDigits (base : Nat) : Nat → List Char → Option Nat
  | acc, [] => some acc
  | acc, c :: rest =>
    match digitValue c with
    | some d => if d < base then readDigits base (acc * base + d) rest else none
    | none => none

/-- A colour literal, `#RRGGBB` (alpha 0xFF) or `#RRGGBBAA`, as the word `{AA, BB, GG, RR}`: its bytes are
R, G, B, A in that order (30_encoding.md R113). -/
def readColor (digits : List Char) : Option Nat :=
  match digits.length, readDigits 16 0 digits with
  | 6, some n => some (wordOfBytes (BitVec.ofNat 8 (n / 65536)) (BitVec.ofNat 8 (n / 256)) (BitVec.ofNat 8 n) 0xFF#8).toNat
  | 8, some n => some (wordOfBytes (BitVec.ofNat 8 (n / 16777216)) (BitVec.ofNat 8 (n / 65536))
      (BitVec.ofNat 8 (n / 256)) (BitVec.ofNat 8 n)).toNat
  | _, _ => none

/-- An operand: a colour literal, a `0x` hexadecimal or a decimal number (30_encoding.md R113). Each form is
accepted at every operand, a colour literal where no colour is meant and a number where C is (DESIGN CHOICE, log
18). -/
def readOperand : List Char → Option Nat
  | [] => none
  | '#' :: digits => readColor digits
  | '0' :: 'x' :: d :: digits => readDigits 16 0 (d :: digits)
  | digits => readDigits 10 0 digits

/-! ## Operand ranges: a spelling whose encoding would be illegal is refused (30_encoding.md R113), and so is a
number too large for its field (DESIGN CHOICE, log 19) -/

/-- A 32-bit operand; a larger number is refused, not truncated (DESIGN CHOICE, log 19). -/
def asWord (n : Nat) : Option Word := if n < 2 ^ 32 then some (BitVec.ofNat 32 n) else none

/-- A 16-bit operand; a larger number is refused, not truncated (DESIGN CHOICE, log 19). -/
def asHalf (n : Nat) : Option Half := if n < 2 ^ 16 then some (BitVec.ofNat 16 n) else none

/-- A bit depth 1..8. -/
def asDepth (n : Nat) : Option (BitVec 4) := if 1 ≤ n ∧ n ≤ 8 then some (BitVec.ofNat 4 n) else none

/-- A slot count 4, 16 or 256. -/
def asSlots (n : Nat) : Option SlotCount :=
  if n = 4 then some .s4 else if n = 16 then some .s16 else if n = 256 then some .s256 else none

/-! ## Commands -/

/-- What a mnemonic makes of its operands; `none` refuses them. -/
abbrev Builder := List Nat → Option Instr

/-- A command with no operand. -/
def noOperand (i : Instr) : Builder
  | [] => some i
  | _ => none

/-- A command with one word operand. -/
def oneWord (f : Word → Instr) : Builder
  | [n] => (asWord n).map f
  | _ => none

/-- A command with two word operands. -/
def twoWords (f : Word → Word → Instr) : Builder
  | [m, n] => do return f (← asWord m) (← asWord n)
  | _ => none

/-- A quantizer command `B, C`. -/
def depthAndWord (f : BitVec 4 → Word → Instr) : Builder
  | [b, n] => do return f (← asDepth b) (← asWord n)
  | _ => none

/-- `tile.FMT FB, W, H, TX, TY`. -/
def tileOperands (layout : TileLayout) : Builder
  | [fb, w, h, tx, ty] => do
    return tileInstr layout (← asWord fb) (← asHalf w) (← asHalf h) (← asHalf tx) (← asHalf ty)
  | _ => none

/-- `frame.FMT FB, W, H`. -/
def frameOperands (layout : TileLayout) : Builder
  | [fb, w, h] => do return frameInstr layout (← asWord fb) (← asHalf w) (← asHalf h)
  | _ => none

/-- `pal.PFMT SLOTS`. -/
def palOperands (format : PalFormat) : Builder
  | [n] => (asSlots n).map (palInstr format)
  | _ => none

/-- FMT with `.t16` accepted only with `mono1` and `.rows` only after `.t16` (30_encoding.md R113). -/
def layoutNames : List (String × TileLayout) :=
  [("planar2", .planar2), ("inter2", .inter2), ("nib4h", .nib4h), ("nib4l", .nib4l), ("bp4", .bp4),
    ("lin8", .lin8), ("mono1", .mono1), ("mono1.t16", .mono1T16), ("mono1.t16.rows", .mono1T16Rows)]

/-- PFMT with `.hf` accepted only with `gen` (30_encoding.md R113). -/
def formatNames : List (String × PalFormat) :=
  [("sms", .sms), ("gen", .gen), ("bgr555", .bgr555), ("msx2", .msx2), ("fixed", .fixed), ("gen.hf", .genHf)]

/-- The mnemonics of 30_encoding.md R113 that take no format. -/
def plainMnemonics : List (List Char × Builder) :=
  [("end".toList, noOperand .endStream), ("nop".toList, noOperand .nop), ("setout".toList, twoWords .setout),
    ("qsnap".toList, depthAndWord .qsnap), ("qton".toList, depthAndWord .qton),
    ("qexp".toList, depthAndWord .qexp), ("qfix".toList, oneWord .qfix), ("mapclr".toList, noOperand .mapclr),
    ("mapbuild".toList, twoWords .mapbuild), ("maplook".toList, oneWord .maplook)]

/-- The mnemonics of 30_encoding.md R113 with a format suffix. -/
def formatMnemonics : List (List Char × Builder) :=
  layoutNames.map (fun p => ("tile.".toList ++ p.1.toList, tileOperands p.2)) ++
    layoutNames.map (fun p => ("frame.".toList ++ p.1.toList, frameOperands p.2)) ++
    formatNames.map (fun p => ("pal.".toList ++ p.1.toList, palOperands p.2))

/-- The pseudo-instructions, each one command (30_encoding.md R114). -/
def pseudoMnemonics : List (List Char × Builder) :=
  [("qsnap.rgb555".toList, oneWord (.qsnap 5#4)), ("qsnap.rgb444".toList, oneWord (.qsnap 4#4)),
    ("qsnap.rgb333".toList, oneWord (.qsnap 3#4)), ("qsnap.rgb222".toList, oneWord (.qsnap 2#4)),
    ("qsnap.none".toList, oneWord (.qsnap 8#4)), ("quant.fixed".toList, oneWord .qfix),
    ("chr.nes".toList, frameOperands .planar2), ("chr.gb".toList, frameOperands .inter2),
    ("chr.gen".toList, frameOperands .nib4h), ("chr.sms".toList, frameOperands .nib4h),
    ("chr.gba4".toList, frameOperands .nib4l), ("chr.snes".toList, frameOperands .bp4),
    ("chr.msx1".toList, frameOperands .mono1), ("pal.gbc".toList, palOperands .bgr555),
    ("pal.snes".toList, palOperands .bgr555), ("pal.gba".toList, palOperands .bgr555)]

/-- The command a mnemonic and its operands spell. -/
def assembleCommand (mnemonic : List Char) (operands : List Nat) : Option Instr :=
  match (plainMnemonics ++ formatMnemonics ++ pseudoMnemonics).find? fun p => decide (p.1 = mnemonic) with
  | some p => p.2 operands
  | none => none

/-! ## Lines and streams -/

/-- What a line contributes: bytes at the current address, or a new address (30_encoding.md R113). -/
inductive AsmItem where
  | bytes (bs : List Byte)
  | org (a : Nat)
deriving DecidableEq, Repr

/-- `.org A`, `.word V`, `.byte V` and `.rgba C` (30_encoding.md R113). A value that does not fit its one or four
bytes is refused, and `.org` takes any address (DESIGN CHOICE, log 19); every operand may be a number or a colour
literal (log 18). -/
def assembleDirective (name : List Char) (operands : List Nat) : Option AsmItem :=
  match operands with
  | [n] =>
    if name = ".org".toList then some (.org n)
    else if name = ".word".toList ∨ name = ".rgba".toList then (asWord n).map fun v => .bytes (bytesOfWord v)
    else if name = ".byte".toList ∧ n < 256 then some (.bytes [BitVec.ofNat 8 n])
    else none
  | _ => none

/-- One line: nothing, a directive or a command; `none` is a line the assembler refuses. -/
def assembleLine (line : String) : Option (List AsmItem) :=
  match splitTokens [] (withoutComment line.toList) with
  | [] => some []
  | name :: rest => do
    let operands ← rest.mapM readOperand
    match assembleDirective name operands with
    | some item => return [item]
    | none => return [.bytes (encodeBytes (← assembleCommand name operands))]

/-- The bytes of one run of lines, each with its address. -/
def placeItems : Nat → List AsmItem → List Host.Cell
  | _, [] => []
  | _, .org a :: rest => placeItems a rest
  | a, .bytes bs :: rest => (bs.zipIdx a).map (fun p => (p.2, p.1)) ++ placeItems (a + bs.length) rest

/-- A source text, one command per line, as the bytes it places in BUF from address 0 on. -/
def assemble (lines : List String) : Option (List Host.Cell) := do
  let items ← lines.mapM assembleLine
  return placeItems 0 items.flatten

end Sys2Proof.Machine
end

