-- ==== Sys2Proof/Safety.lean ====
section
/-! DEFINITION. The terms claims use: a well-formed machine, a run, what an abort leaves, the conditions under
which a command completes, and what it then writes, spelled from the rules of spec/. -/

namespace Sys2Proof.Machine

/-- BUF in canonical form, with bytes only at addresses that exist (20_memory.md R70), and a MEM_SIZE that
00_scope.md R7 admits. -/
structure MemoryOk (s : State) : Prop where
  canonical : s.buf.wf
  inside : ∀ c ∈ s.buf, c.1 < s.memSize
  sizeMin : Config.memSizeMin ≤ s.memSize
  sizeMax : s.memSize ≤ Config.memSizeMax

/-- The status discipline: DONE and ERROR are never both 1 (10_state.md R34), neither stands while BUSY = 1
(40_stream_control.md R140), ERRCODE names an error exactly when ERROR = 1, and the info words are 0 without
one (40_stream_control.md R140, 60_exceptions.md R304). -/
structure StatusOk (s : State) : Prop where
  doneNotError : s.done = true → s.error = false
  busyClear : s.busy = true → s.done = false ∧ s.error = false
  codeIff : s.error = true ↔ s.errCode ≠ .none
  infoClear : s.error = false → s.errA = 0#32 ∧ s.errB = 0#32

/-- The mapping discipline: LUT[s] = 0 for s > LUT_N, the colours LUT[1..LUT_N] pairwise distinct
(10_state.md R41), and no colour at all while LUT_VALID = 0. -/
structure LutOk (s : State) : Prop where
  distinct : (s.lut.toList.take s.lutN.toNat).Nodup
  cleared : ∀ k : Nat, s.lutN.toNat ≤ k → s.lut.toList.getD k 0#24 = 0#24
  invalidEmpty : s.lutValid = false → s.lutN = 0#8

/-- The register ranges: FIX_COUNT is at most 256 (10_state.md R38), and no first miss is latched while
WARN_COUNT is 0 (10_state.md R43). -/
structure RegistersOk (s : State) : Prop where
  fixCap : s.fixCount.toNat ≤ Config.fixCap
  noWarning : s.warnCount = 0#32 → s.warnRgba = 0#32

/-- The invariant of the machine. -/
structure Inv (s : State) : Prop where
  memory : MemoryOk s
  status : StatusOk s
  lut : LutOk s
  registers : RegistersOk s

/-- `t` is reached from `s` by steps of the machine. -/
inductive Reaches : State → State → Prop where
  | refl (s : State) : Reaches s s
  | tail {s t u : State} (h : Reaches s t) (hu : step t = .next u) : Reaches s u

/-- The stream has stopped: END, an abort or SRST cleared BUSY (70_reset_and_hazards.md R352). -/
def Stopped (s : State) : Prop := s.busy = false

/-! ## What an abort leaves (60_exceptions.md R304) -/

/-- The state an abort with this code and these info words leaves: nothing else changes. -/
def abortedState (code : ErrCode) (a b : Word) (s : State) : State :=
  { s with error := true, errCode := code, errA := a, errB := b, busy := false }

/-- A length in ERR_B: `min(len, 0xFFFFFFFF)` (20_memory.md R74). -/
def reportedLength (len : Nat) : Word := BitVec.ofNat 32 (min len 0xFFFFFFFF)

/-! ## Runs of commands -/

/-- Commands executed one after the other, without fetching; `none` once one stops the machine. -/
def runCommands : List Instr → State → Option State
  | [], s => some s
  | i :: rest, s =>
    match exec i s with
    | .next t => runCommands rest t
    | .fault _ => none
    | .refused _ => none

/-! ## Colours and lists -/

/-- The channels of a word {A, B, G, R} as naturals (00_scope.md R10). -/
def channel (c : Word) (k : Nat) : Nat := c.toNat / 256 ^ k % 256

/-- The opaque colours of the first `n` entries of a colour list, in list order (20_memory.md R73). -/
def listedColors (s : State) (cl n : Nat) : List Rgb :=
  (((List.range n).map fun i => s.buf.readWord (cl + 4 * i)).filter fun e => decide (128 ≤ channel e 3)).map
    fun e => e.setWidth 24

/-- WARN_COUNT after `k` more misses (60_exceptions.md R310). -/
def countAfter (s : State) (k : Nat) : Word := BitVec.ofNat 32 (min (s.warnCount.toNat + k) 0xFFFFFFFF)

/-- WARN_RGBA after these misses, the first one first (60_exceptions.md R310). -/
def rgbaAfter (s : State) (misses : List Word) : Word :=
  if s.warnCount = 0#32 then misses.headD s.warnRgba else s.warnRgba

/-! ## TILE and FRAME (43_tile_encoder.md) -/

/-- The pixels of tile (tx, ty), row by row (43_tile_encoder.md R222). -/
def tilePixels (layout : TileLayout) (fb : Word) (w tx ty : Nat) (s : State) : List (List Word) :=
  (List.range (tileEdge layout)).map fun y => (List.range (tileEdge layout)).map fun x =>
    s.buf.readWord (fb.toNat + 4 * ((ty * tileEdge layout + y) * w + tx * tileEdge layout + x))

/-- The slot matrix of tile (tx, ty) (43_tile_encoder.md R223). -/
def tileSlots (layout : TileLayout) (fb : Word) (w tx ty : Nat) (s : State) : List (List Byte) :=
  (tilePixels layout fb w tx ty s).map fun row => row.map fun px => (resolve s px).1

/-- The misses of tile (tx, ty) in row-major order (43_tile_encoder.md R223). -/
def tileMisses (layout : TileLayout) (fb : Word) (w tx ty : Nat) (s : State) : List Word :=
  (tilePixels layout fb w tx ty s).flatten.filter fun px => (resolve s px).2

/-- The ranges of a command that writes `n` tiles are in BUF (20_memory.md R74, 43_tile_encoder.md R240). -/
abbrev TileRangesInside (layout : TileLayout) (fb : Word) (w h n : Nat) (s : State) : Prop :=
  inRange s ⟨fb, 4 * w * h⟩ ∧ inRange s ⟨s.outPtr, n * patternLength layout⟩ ∧
    inRange s ⟨s.colPtr, n * colorLength layout⟩ ∧
    (isMono layout = true → 1 ≤ s.lutN.toNat → inRange s ⟨s.fixBase, 4 * s.fixCount.toNat⟩)

/-- No write range of such a command meets a read range or the other write range (20_memory.md R80). -/
abbrev TileRangesDisjoint (layout : TileLayout) (fb : Word) (w h n : Nat) (s : State) : Prop :=
  ¬ overlaps ⟨s.outPtr, n * patternLength layout⟩ ⟨fb, 4 * w * h⟩ ∧
    ¬ overlaps ⟨s.outPtr, n * patternLength layout⟩ ⟨s.colPtr, n * colorLength layout⟩ ∧
    ¬ overlaps ⟨s.colPtr, n * colorLength layout⟩ ⟨fb, 4 * w * h⟩ ∧
    (isMono layout = true → 1 ≤ s.lutN.toNat →
      ¬ overlaps ⟨s.outPtr, n * patternLength layout⟩ ⟨s.fixBase, 4 * s.fixCount.toNat⟩ ∧
        ¬ overlaps ⟨s.colPtr, n * colorLength layout⟩ ⟨s.fixBase, 4 * s.fixCount.toNat⟩)

/-- Every slot of tile (tx, ty) fits the format (43_tile_encoder.md R224). -/
abbrev TileSlotsFit (layout : TileLayout) (fb : Word) (w tx ty : Nat) (s : State) : Prop :=
  isMono layout = false →
    ∀ row ∈ tileSlots layout fb w tx ty s, ∀ slot ∈ row, slot.toNat < 2 ^ bitsPerPixel layout

/-- `fg` is the foreground index MONO1 uses (43_tile_encoder.md R228). -/
abbrev ForegroundIs (layout : TileLayout) (s : State) (fg : Nat) : Prop :=
  if isMono layout = true ∧ 1 ≤ s.lutN.toNat then
    fg ≤ 15 ∧ ∃ i < s.fixCount.toNat,
      (fixEntry s i).toNat = fg * 2 ^ 24 + (lutSlot s 1).toNat ∧
        ∀ j < i, (fixEntry s j).toNat % 2 ^ 24 ≠ (lutSlot s 1).toNat
  else fg = 0

/-- The conditions under which TILE completes (43_tile_encoder.md R240). -/
abbrev TileReady (layout : TileLayout) (fb : Word) (w h tx ty : Nat) (s : State) (fg : Nat) : Prop :=
  ((tx + 1) * tileEdge layout ≤ w ∧ (ty + 1) * tileEdge layout ≤ h) ∧ s.lutValid = true ∧
    TileRangesInside layout fb w h 1 s ∧ TileRangesDisjoint layout fb w h 1 s ∧
    TileSlotsFit layout fb w tx ty s ∧ ForegroundIs layout s fg

/-- The conditions under which FRAME completes (43_tile_encoder.md R241). -/
abbrev FrameReady (layout : TileLayout) (fb : Word) (w h : Nat) (s : State) (fg : Nat) : Prop :=
  (0 < w ∧ w % tileEdge layout = 0 ∧ 0 < h ∧ h % tileEdge layout = 0) ∧ s.lutValid = true ∧
    TileRangesInside layout fb w h (w / tileEdge layout * (h / tileEdge layout)) s ∧
    TileRangesDisjoint layout fb w h (w / tileEdge layout * (h / tileEdge layout)) s ∧
    (∀ ty < h / tileEdge layout, ∀ tx < w / tileEdge layout, TileSlotsFit layout fb w tx ty s) ∧
    ForegroundIs layout s fg

/-- The ranges TILE and FRAME check, in the order of 60_exceptions.md R303: frame, output, colour output,
fixed table. -/
def tileRangesInOrder (layout : TileLayout) (fb : Word) (w h n : Nat) (s : State) : List ByteRange :=
  [⟨fb, 4 * w * h⟩, ⟨s.outPtr, n * patternLength layout⟩, ⟨s.colPtr, n * colorLength layout⟩] ++
    if isMono layout = true ∧ 1 ≤ s.lutN.toNat then [⟨s.fixBase, 4 * s.fixCount.toNat⟩] else []

/-- The pairs of a write range and a range it may overlap, in the order of 20_memory.md R80: the OUT_PTR
range with the frame, the fixed table and the COL_PTR range, then the COL_PTR range with the frame and the
fixed table. -/
def tilePairsInOrder (layout : TileLayout) (fb : Word) (w h n : Nat) (s : State) :
    List (ByteRange × ByteRange) :=
  let out : ByteRange := ⟨s.outPtr, n * patternLength layout⟩
  let col : ByteRange := ⟨s.colPtr, n * colorLength layout⟩
  let reads : List ByteRange :=
    ⟨fb, 4 * w * h⟩ :: if isMono layout = true ∧ 1 ≤ s.lutN.toNat then [⟨s.fixBase, 4 * s.fixCount.toNat⟩] else []
  (reads ++ [col]).map (fun r => (out, r)) ++ reads.map fun r => (col, r)

/-- The tiles of a frame left to right, top to bottom (43_tile_encoder.md R241). -/
def rasterTiles (layout : TileLayout) (w h : Nat) : List (Nat × Nat) :=
  (List.range (h / tileEdge layout)).flatMap fun ty =>
    (List.range (w / tileEdge layout)).map fun tx => (tx, ty)

/-- The slot of row y and column x of a slot matrix. -/
def slotAt (rows : List (List Byte)) (y x : Nat) : Byte := (rows.getD y []).getD x 0#8

/-- A slot matrix of edge `n`. -/
abbrev IsSquare (rows : List (List Byte)) (n : Nat) : Prop := rows.length = n ∧ ∀ row ∈ rows, row.length = n

/-! ## PAL (44_palette_serializer.md) -/

/-- toNBit of the channel R (k = 0), G (k = 1) or B (k = 2) of a colour at depth b
(44_palette_serializer.md R272). -/
def channelCode (x : Rgb) (k b : Nat) : Nat := (2 * (x.toNat / 256 ^ k % 256) * (2 ^ b - 1) + 255) / 510

/-- The bytes of a slot in the arithmetic formats (44_palette_serializer.md R276 to R279), and the table's
code in FIXED (R280). -/
def slotBytesOf (format : PalFormat) (s : State) (x : Rgb) : List Byte :=
  match format with
  | .sms => [BitVec.ofNat 8 (channelCode x 0 2 + 4 * channelCode x 1 2 + 16 * channelCode x 2 2)]
  | .gen => [BitVec.ofNat 8 (2 * channelCode x 0 3 + 32 * channelCode x 1 3), BitVec.ofNat 8 (2 * channelCode x 2 3)]
  | .genHf => [BitVec.ofNat 8 (2 * channelCode x 2 3), BitVec.ofNat 8 (2 * channelCode x 0 3 + 32 * channelCode x 1 3)]
  | .bgr555 =>
    [BitVec.ofNat 8 ((channelCode x 2 5 * 1024 + channelCode x 1 5 * 32 + channelCode x 0 5) % 256),
      BitVec.ofNat 8 ((channelCode x 2 5 * 1024 + channelCode x 1 5 * 32 + channelCode x 0 5) / 256)]
  | .msx2 => [BitVec.ofNat 8 (16 * channelCode x 0 3 + channelCode x 1 3), BitVec.ofNat 8 (16 * channelCode x 2 3)]
  | .fixed => [((fixLookup s x).map fun p => p.2).getD 0#8]

/-- The conditions under which PAL completes (44_palette_serializer.md R273). -/
abbrev PalReady (format : PalFormat) (slots : SlotCount) (s : State) : Prop :=
  s.lutValid = true ∧ s.lutN.toNat + 1 ≤ slotCount slots ∧
    inRange s ⟨s.outPtr, slotCount slots * bytesPerSlot format⟩ ∧
    (format = .fixed →
      inRange s ⟨s.fixBase, 4 * s.fixCount.toNat⟩ ∧
        ¬ overlaps ⟨s.outPtr, slotCount slots * bytesPerSlot format⟩ ⟨s.fixBase, 4 * s.fixCount.toNat⟩ ∧
        ∀ k < s.lutN.toNat, (fixLookup s (lutSlot s (k + 1))).isSome = true)

end Sys2Proof.Machine
end

