-- ==== Sys2Proof/Certificates/Slice0/Obligations.lean ====
section
/-! DEFINITION. The statements for the provers: what the rules of spec/ say the machine does. -/

open Sys2Proof Sys2Proof.Machine

/-- Decoding the words and the bytes of any well-formed command gives it back. For every well-formed instruction
of all 34 rows, with every operand: decode of its four words, and decodeBytes of its sixteen bytes, answer
exactly that instruction. No bit of an encoding is dropped. (R100, R101, R102, R103, R104, R106, R107, R108) -/
def Obligations.DecodeOfEncode : Prop :=
  ∀ i : Instr, i.WellFormed → decode (encode i) = .ok i ∧ decodeBytes (encodeBytes i) = .ok i

/-- A descriptor that decodes is the one encoding of a well-formed command. For every descriptor: if it decodes to
an instruction, that instruction is well formed and its encoding is that descriptor, so no two descriptors
stand for one command and every reserved or unused bit is 0. (R104, R105) -/
def Obligations.EncodeOfDecode : Prop :=
  ∀ (d : Descriptor) (i : Instr), decode d = .ok i → i.WellFormed ∧ encode i = d

/-- The worked encodings assemble to the printed words and decode to the printed commands. Each of the seven lines
of R115 assembles to the four words printed beside it, those words decode to the command, and the sixteen
bytes of qsnap 3, #FF8040 are those printed. (R115) -/
def Obligations.WorkedEncodings : Prop :=
  (assembleLine "qsnap 3, #FF8040" =
      some [.bytes [0x10, 0x03, 0x00, 0x00, 0xFF, 0x80, 0x40, 0xFF, 0, 0, 0, 0, 0, 0, 0, 0]] ∧
    (∀ p ∈ ([("qsnap 3, #FF8040", ⟨0x00000310, 0xFF4080FF, 0, 0⟩, .qsnap 3 0xFF4080FF),
        ("frame.planar2 0x1000, 16, 16", ⟨0x00000031, 0x00001000, 0x00100010, 0⟩, .framePlanar2 0x1000 16 16),
        ("tile.mono1.t16.rows 0x2000, 32, 16, 1, 0", ⟨0x00030630, 0x00002000, 0x00100020, 0x00000001⟩,
          .tileMono1T16Rows 0x2000 32 16 1 0),
        ("pal.gen.hf 16", ⟨0x00011140, 0, 0, 0⟩, .palGenHf .s16),
        ("pal.bgr555 256", ⟨0x00002240, 0, 0, 0⟩, .palBgr555 .s256),
        ("mapbuild 0x0800, 3", ⟨0x00000021, 0x00000800, 0x00000003, 0⟩, .mapbuild 0x800 3),
        ("end", ⟨0, 0, 0, 0⟩, .endStream)] : List (String × Descriptor × Instr)),
      assembleLine p.1 = some [.bytes (bytesOfDescriptor p.2.1)] ∧ decode p.2.1 = .ok p.2.2))

/-- An unknown opcode, or a reserved bit of W0 set, is illegal at W0. For every descriptor: if W0[7:0] is none of
the thirteen opcodes of R103, or any of the bits 14, 15, 18..31 of W0 is 1, decoding answers illegal with
first illegal word W0. (30_encoding.md R103, 30_encoding.md R104, 30_encoding.md R105) -/
def Obligations.UnknownOpcodeOrReservedBitIsIllegal : Prop :=
  ∀ d : Descriptor,
    (d.w0.toNat % 256 ∉ [0x00, 0x01, 0x02, 0x10, 0x11, 0x12, 0x13, 0x20, 0x21, 0x22, 0x30, 0x31, 0x40] ∨
      ∃ k, (k = 14 ∨ k = 15 ∨ (18 ≤ k ∧ k < 32)) ∧ d.w0.getLsbD k = true) →
    decode d = .error .illegalW0

/-- A rejection names the first illegal word in the order W0, W1, W2, W3. For every descriptor: a rejection at W1,
W2 or W3 means that word is nonzero and that the same descriptor with that word and the later words zero
decodes; a rejection at W0 holds whatever the operand words are; a full descriptor is never rejected as
truncated. (30_encoding.md R105) -/
def Obligations.FirstIllegalWordIsNamed : Prop :=
  ∀ w0 w1 w2 w3 : Word,
    (decode ⟨w0, w1, w2, w3⟩ = .error .illegalW0 → ∀ a b c : Word, decode ⟨w0, a, b, c⟩ = .error .illegalW0) ∧
    (decode ⟨w0, w1, w2, w3⟩ = .error .illegalW1 → w1 ≠ 0#32 ∧ ∃ i, decode ⟨w0, 0, 0, 0⟩ = .ok i) ∧
    (decode ⟨w0, w1, w2, w3⟩ = .error .illegalW2 → w2 ≠ 0#32 ∧ ∃ i, decode ⟨w0, w1, 0, 0⟩ = .ok i) ∧
    (decode ⟨w0, w1, w2, w3⟩ = .error .illegalW3 → w3 ≠ 0#32 ∧ ∃ i, decode ⟨w0, w1, w2, 0⟩ = .ok i) ∧
    decode ⟨w0, w1, w2, w3⟩ ≠ .error .truncated

/-- Each pseudo-instruction assembles to its expansion. For every operand: each of the sixteen pseudo-instructions
of R114 assembles to exactly the command of its expansion, or is refused with it. (R114) -/
def Obligations.PseudoInstructionsExpand : Prop :=
  ∀ c fb w h n : Nat,
    assembleCommand "qsnap.rgb555".toList [c] = assembleCommand "qsnap".toList [5, c] ∧
    assembleCommand "qsnap.rgb444".toList [c] = assembleCommand "qsnap".toList [4, c] ∧
    assembleCommand "qsnap.rgb333".toList [c] = assembleCommand "qsnap".toList [3, c] ∧
    assembleCommand "qsnap.rgb222".toList [c] = assembleCommand "qsnap".toList [2, c] ∧
    assembleCommand "qsnap.none".toList [c] = assembleCommand "qsnap".toList [8, c] ∧
    assembleCommand "quant.fixed".toList [c] = assembleCommand "qfix".toList [c] ∧
    assembleCommand "chr.nes".toList [fb, w, h] = assembleCommand "frame.planar2".toList [fb, w, h] ∧
    assembleCommand "chr.gb".toList [fb, w, h] = assembleCommand "frame.inter2".toList [fb, w, h] ∧
    assembleCommand "chr.gen".toList [fb, w, h] = assembleCommand "frame.nib4h".toList [fb, w, h] ∧
    assembleCommand "chr.sms".toList [fb, w, h] = assembleCommand "frame.nib4h".toList [fb, w, h] ∧
    assembleCommand "chr.gba4".toList [fb, w, h] = assembleCommand "frame.nib4l".toList [fb, w, h] ∧
    assembleCommand "chr.snes".toList [fb, w, h] = assembleCommand "frame.bp4".toList [fb, w, h] ∧
    assembleCommand "chr.msx1".toList [fb, w, h] = assembleCommand "frame.mono1".toList [fb, w, h] ∧
    assembleCommand "pal.gbc".toList [n] = assembleCommand "pal.bgr555".toList [n] ∧
    assembleCommand "pal.snes".toList [n] = assembleCommand "pal.bgr555".toList [n] ∧
    assembleCommand "pal.gba".toList [n] = assembleCommand "pal.bgr555".toList [n]

/-- A step of a running stream executes the command its sixteen bytes decode to. For every state that is busy with
no host action to come, CMD_PTR a multiple of 4 and the descriptor inside BUF: if the sixteen bytes of BUF
from CMD_PTR on decode to an instruction, step answers exactly what exec answers for it (exec includes the
advance of CMD_PTR by 16, or the abort). (40_stream_control.md R140, 20_memory.md R71, 30_encoding.md R100) -/
def Obligations.StepRunsTheDecodedCommand : Prop :=
  ∀ (s : State) (i : Instr), s.host = [] → s.busy = true → s.cmdPtr.toNat % 4 = 0 →
    s.cmdPtr.toNat + 16 ≤ s.memSize →
    decodeBytes ((List.range 16).map fun k => s.buf.read (s.cmdPtr.toNat + k)) = .ok i →
    step s = exec i s

/-- A command stored where the next step fetches is the command the next step executes. For every well-formed
instruction and every state whose BUF has at least 16 bytes: after its bytes are placed with placeCommand (the
model's own way to place a command, log 14), step executes exactly that instruction. (40_stream_control.md
R140, 30_encoding.md R100, 20_memory.md R85) -/
def Obligations.PlacedCommandRunsNext : Prop :=
  ∀ (i : Instr) (s : State), i.WellFormed → 16 ≤ s.memSize →
    step (placeCommand (encodeBytes i) s) = exec i (placeCommand (encodeBytes i) s)

/-- A fetch aborts with ALIGN, then BOUNDS, then ILLEGAL, with their info words. For every busy state with no host
action to come: a CMD_PTR that is not a multiple of 4 aborts with ALIGN (CMD_PTR, 0); an aligned one with
fewer than 16 bytes of BUF left aborts with BOUNDS (CMD_PTR, 16); otherwise, where the four words at CMD_PTR
do not decode, the abort is ILLEGAL with W0 and the index of the first illegal word. (40_stream_control.md
R140, 20_memory.md R75, 30_encoding.md R105, 60_exceptions.md R302) -/
def Obligations.FetchErrorsInOrder : Prop :=
  ∀ s : State, s.host = [] → s.busy = true →
    (s.cmdPtr.toNat % 4 ≠ 0 → step s = .next (abortedState .align s.cmdPtr 0#32 s)) ∧
    (s.cmdPtr.toNat % 4 = 0 → s.memSize < s.cmdPtr.toNat + 16 →
      step s = .next (abortedState .bounds s.cmdPtr 16#32 s)) ∧
    (s.cmdPtr.toNat % 4 = 0 → s.cmdPtr.toNat + 16 ≤ s.memSize →
      ∀ (w0 w1 w2 w3 : Word) (k : Nat),
        w0 = s.buf.readWord s.cmdPtr.toNat → w1 = s.buf.readWord (s.cmdPtr.toNat + 4) →
        w2 = s.buf.readWord (s.cmdPtr.toNat + 8) → w3 = s.buf.readWord (s.cmdPtr.toNat + 12) →
        (k, decode ⟨w0, w1, w2, w3⟩) ∈
          ([(0, .error .illegalW0), (1, .error .illegalW1), (2, .error .illegalW2), (3, .error .illegalW3)] :
            List (Nat × Except Reject Instr)) →
        step s = .next (abortedState .illegal w0 (BitVec.ofNat 32 k) s))

/-- An idle block with no host action to come keeps its whole state (the model's choice, log 3). While BUSY = 0
the block has no step; the model lets such a step answer the same state (DESIGN CHOICE, log 3), so all state
survives idle. (40_stream_control.md R140, 60_exceptions.md R319) -/
def Obligations.IdleStepChangesNothing : Prop :=
  ∀ s : State, s.host = [] → s.busy = false → step s = .next s

/-- END sets DONE, clears BUSY and leaves CMD_PTR just past itself. For every state exec of end (endStream)
answers the state with DONE = 1, BUSY = 0, CMD_PTR + 16 and every other field unchanged; the irq line then
equals CTRL.IE; the all-zero descriptor is end, and no other descriptor with OP = 0x00 decodes. (R141) -/
def Obligations.EndStopsTheStream : Prop :=
  (∀ s : State,
      exec .endStream s = .next { s with done := true, busy := false, cmdPtr := s.cmdPtr + 16#32 } ∧
        irq { s with done := true, busy := false, cmdPtr := s.cmdPtr + 16#32 } = s.ie) ∧
    decode ⟨0, 0, 0, 0⟩ = .ok .endStream ∧
    ∀ d : Descriptor, d.w0.toNat % 256 = 0 → d ≠ ⟨0, 0, 0, 0⟩ → ∃ r, decode d = .error r

/-- NOP only advances CMD_PTR. For every state exec of nop answers the state with CMD_PTR + 16 and every other
field unchanged; the descriptor (1, 0, 0, 0) is nop, and one with OP = 0x01 and any other nonzero bit is
rejected. (R142) -/
def Obligations.NopOnlyAdvances : Prop :=
  (∀ s : State, exec .nop s = .next { s with cmdPtr := s.cmdPtr + 16#32 }) ∧
    decode ⟨1, 0, 0, 0⟩ = .ok .nop ∧
    ∀ d : Descriptor, d.w0.toNat % 256 = 1 → d ≠ ⟨1, 0, 0, 0⟩ → ∃ r, decode d = .error r

/-- SETOUT sets OUT_PTR and COL_PTR to any two 32-bit values. For every state and operands exec of setout answers
the state with the two pointers set, CMD_PTR + 16 and every other field unchanged. (40_stream_control.md R143) -/
def Obligations.SetoutSetsBothPointers : Prop :=
  ∀ (o c : Word) (s : State),
    exec (.setout o c) s = .next { s with outPtr := o, colPtr := c, cmdPtr := s.cmdPtr + 16#32 }

/-- toNBit is v*(2^b-1)/255 rounded to the nearest integer, with no tie. For every v in 0..255 and b in 1..8:
toNBit(v, b) is the rounding of the rational v*(2^b-1)/255, no tie occurs, the integer form holds, the result
is at most 2^b-1, and for b = 8 it is v. (R160) -/
def Obligations.ToNBitRounds : Prop :=
  ∀ v b : Nat, v ≤ 255 → 1 ≤ b → b ≤ 8 →
    (toNBit v b : ℤ) = round ((v : ℚ) * (2 ^ b - 1) / 255) ∧
    (∀ k : Nat, 2 * v * (2 ^ b - 1) ≠ 255 * (2 * k + 1)) ∧
    toNBit v b = (2 * v * (2 ^ b - 1) + 255) / 510 ∧ toNBit v b ≤ 2 ^ b - 1 ∧ (b = 8 → toNBit v b = v)

/-- expand is n*255/(2^b-1) rounded to the nearest integer, with no tie. For every b in 1..8 and n in 0..2^b-1:
expand(n, b) is the rounding of the rational n*255/(2^b-1), no tie occurs, the integer form holds, the result
is at most 255, 0 and the greatest code go to 0 and 255, and for b = 8 it is n. (R161) -/
def Obligations.ExpandRounds : Prop :=
  ∀ n b : Nat, 1 ≤ b → b ≤ 8 → n ≤ 2 ^ b - 1 →
    (expand n b : ℤ) = round ((n : ℚ) * 255 / (2 ^ b - 1)) ∧
    (∀ k : Nat, 2 * 255 * n ≠ (2 ^ b - 1) * (2 * k + 1)) ∧
    expand n b = (510 * n + (2 ^ b - 1)) / (2 * (2 ^ b - 1)) ∧ expand n b ≤ 255 ∧
    expand 0 b = 0 ∧ expand (2 ^ b - 1) b = 255 ∧ (b = 8 → expand n b = n)

/-- Snapping a snapped colour changes nothing. For every 32-bit colour c and b in 1..8, snap(snap(c, b), b) =
snap(c, b). (R164) -/
def Obligations.SnapIsIdempotent : Prop :=
  ∀ (c : Word) (b : Nat), 1 ≤ b → b ≤ 8 → snap (snap c b) b = snap c b

/-- toNBit of an expanded code is the code. For every b in 1..8 and n in 0..2^b-1, toNBit(expand(n, b), b) = n.
(R165) -/
def Obligations.CodeOfExpandedCode : Prop :=
  ∀ n b : Nat, 1 ≤ b → b ≤ 8 → n ≤ 2 ^ b - 1 → toNBit (expand n b) b = n

/-- QSNAP writes to RESULT the colour whose channels are snapped, alpha untouched. For every legal depth, colour
and state exec of qsnap answers the state with CMD_PTR + 16 and a RESULT whose bytes are expand(toNBit) of R,
G and B and the alpha of the operand, every other field unchanged. (41_color_quantizer.md R162,
41_color_quantizer.md R166) -/
def Obligations.QsnapCompletes : Prop :=
  ∀ (b : BitVec 4) (c : Word) (s : State), 1 ≤ b.toNat → b.toNat ≤ 8 →
    ∃ r : Word,
      exec (.qsnap b c) s = .next { s with result := r, cmdPtr := s.cmdPtr + 16#32 } ∧
        (∀ k < 3, channel r k = expand (toNBit (channel c k) b.toNat) b.toNat) ∧ channel r 3 = channel c 3

/-- QTON writes to RESULT the channel codes, alpha untouched. For every legal depth, colour and state exec of qton
answers the state with CMD_PTR + 16 and a RESULT whose low three bytes are toNBit of R, G and B, each at most
2^b-1, and whose top byte is the alpha of the operand, every other field unchanged. (41_color_quantizer.md
R167) -/
def Obligations.QtonCompletes : Prop :=
  ∀ (b : BitVec 4) (c : Word) (s : State), 1 ≤ b.toNat → b.toNat ≤ 8 →
    ∃ r : Word,
      exec (.qton b c) s = .next { s with result := r, cmdPtr := s.cmdPtr + 16#32 } ∧
        (∀ k < 3, channel r k = toNBit (channel c k) b.toNat ∧ channel r k ≤ 2 ^ b.toNat - 1) ∧
        channel r 3 = channel c 3

/-- QEXP expands codes that fit, raises RANGE otherwise, and undoes QTON to the snapped colour. For every legal
depth, code word and state: if the three codes are at most 2^b-1, exec of qexp answers the state with CMD_PTR
+ 16 and a RESULT of expanded codes with the alpha byte copied; if one is greater, it aborts with RANGE (the
code word, 2^b) and nothing else changes; QEXP of a QTON result with the same b gives the QSNAP result; its
encoding is OP = 0x12, F = b, the code word and two zero words, and a nonzero W2 or W3 is rejected. (R168) -/
def Obligations.QexpChecksThenExpands : Prop :=
  ∀ (b : BitVec 4) (w : Word) (s : State), 1 ≤ b.toNat → b.toNat ≤ 8 →
    ((∀ k < 3, channel w k ≤ 2 ^ b.toNat - 1) →
      ∃ r : Word,
        exec (.qexp b w) s = .next { s with result := r, cmdPtr := s.cmdPtr + 16#32 } ∧
          (∀ k < 3, channel r k = expand (channel w k) b.toNat) ∧ channel r 3 = channel w 3) ∧
    ((∃ k < 3, 2 ^ b.toNat - 1 < channel w k) →
      exec (.qexp b w) s = .next (abortedState .range w (BitVec.ofNat 32 (2 ^ b.toNat)) s)) ∧
    (∀ t : State, exec (.qton b w) s = .next t →
      exec (.qexp b t.result) t = .next { t with result := snap w b.toNat, cmdPtr := t.cmdPtr + 16#32 }) ∧
    decode ⟨BitVec.ofNat 32 (0x12 + 256 * b.toNat), w, 0, 0⟩ = .ok (.qexp b w) ∧
    ∀ w2 w3 : Word, (w2 ≠ 0 ∨ w3 ≠ 0) →
      ∃ r, decode ⟨BitVec.ofNat 32 (0x12 + 256 * b.toNat), w, w2, w3⟩ = .error r

/-- QFIX gives the first entry with the colour, 0 for a non-member, BOUNDS for a table outside BUF. For every
operand and every state whose FIX_COUNT is at most 256: with the table in BUF, RESULT becomes FOUND, the index
of the first entry whose colour equals rgb(c) and its code, or 0 when there is none, with CMD_PTR + 16 and
nothing else changed; with the table outside BUF the command aborts with BOUNDS; its encoding is (0x13, c, 0,
0), and a nonzero bit of W0[31:8], W2 or W3 is rejected. (R169, R170) -/
def Obligations.QfixLooksUpTheFixedTable : Prop :=
  ∀ (c : Word) (s : State), s.fixCount.toNat ≤ 256 →
    (inRange s ⟨s.fixBase, 4 * s.fixCount.toNat⟩ → ∀ i < s.fixCount.toNat,
      (s.buf.readWord (s.fixBase.toNat + 4 * i)).toNat % 2 ^ 24 = c.toNat % 2 ^ 24 →
      (∀ j < i, (s.buf.readWord (s.fixBase.toNat + 4 * j)).toNat % 2 ^ 24 ≠ c.toNat % 2 ^ 24) →
      exec (.qfix c) s = .next { s with
        result := BitVec.ofNat 32 (2 ^ 31 + 256 * i + channel (s.buf.readWord (s.fixBase.toNat + 4 * i)) 3)
        cmdPtr := s.cmdPtr + 16#32 }) ∧
    (inRange s ⟨s.fixBase, 4 * s.fixCount.toNat⟩ →
      (∀ j < s.fixCount.toNat,
        (s.buf.readWord (s.fixBase.toNat + 4 * j)).toNat % 2 ^ 24 ≠ c.toNat % 2 ^ 24) →
      exec (.qfix c) s = .next { s with result := 0#32, cmdPtr := s.cmdPtr + 16#32 }) ∧
    (¬ inRange s ⟨s.fixBase, 4 * s.fixCount.toNat⟩ →
      exec (.qfix c) s =
        .next (abortedState .bounds s.fixBase (BitVec.ofNat 32 (4 * s.fixCount.toNat)) s)) ∧
    decode ⟨0x13, c, 0, 0⟩ = .ok (.qfix c) ∧
    ∀ w0 w2 w3 : Word, w0.toNat % 256 = 0x13 → (w0 ≠ 0x13 ∨ w2 ≠ 0 ∨ w3 ≠ 0) →
      ∃ r, decode ⟨w0, c, w2, w3⟩ = .error r

/-- A pixel resolves to slot 0, to the slot that holds its colour, or misses to slot 1. For every state and pixel:
alpha below 128 gives slot 0 without a miss; otherwise the first slot of 1..LUT_N whose colour equals the
pixel's RGB; otherwise slot 1 with a miss, even when LUT_N = 0. (42_color_index_mapper.md R191) -/
def Obligations.ResolveGivesTheSlot : Prop :=
  ∀ (s : State) (px : Word),
    (channel px 3 < 128 → resolve s px = (0#8, false)) ∧
    (128 ≤ channel px 3 → ∀ k, 1 ≤ k → k ≤ s.lutN.toNat →
      (lutSlot s k).toNat = px.toNat % 2 ^ 24 →
      (∀ j, 1 ≤ j → j < k → (lutSlot s j).toNat ≠ px.toNat % 2 ^ 24) →
      resolve s px = (BitVec.ofNat 8 k, false)) ∧
    (128 ≤ channel px 3 → (∀ j, 1 ≤ j → j ≤ s.lutN.toNat → (lutSlot s j).toNat ≠ px.toNat % 2 ^ 24) →
      resolve s px = (1#8, true))

/-- MAPCLR empties the LUT, and the window and LUT_STAT then read 0. For every state exec of mapclr answers the
state with every LUT slot 0, LUT_N = 0, LUT_VALID = 0 and CMD_PTR + 16, nothing else changed; LUT_STAT and
every index of the LUT window then read 0, and MAPLOOK then raises NO_MAP. (42_color_index_mapper.md R192) -/
def Obligations.MapclrDiscardsTheMapping : Prop :=
  ∀ s : State, ∃ t : State,
    exec .mapclr s = .next t ∧
      t = { s with
        lut := Vector.replicate 255 0#24
        lutN := 0#8
        lutValid := false
        cmdPtr := s.cmdPtr + 16#32 } ∧
      readReg t 0x00D = 0#32 ∧ (∀ k, 0x100 ≤ k → k ≤ 0x1FF → readReg t k = 0#32) ∧
      ∀ px, exec (.maplook px) t = .next (abortedState .noMap 0#32 0#32 t)

/-- MAPBUILD stores the opaque colours of the list in list order. For every operand and state: with the list in
BUF, its opaque colours distinct and their number at most the effective limit (255 when UNLIMITED, else MAX),
exec of mapbuild answers the state with slot k holding the k-th opaque colour, the slots beyond 0, LUT_N their
number, LUT_VALID = 1, CMD_PTR + 16 and every other field unchanged. (42_color_index_mapper.md R190,
42_color_index_mapper.md R193) -/
def Obligations.MapbuildCompletes : Prop :=
  ∀ (cl n : Word) (s : State), inRange s ⟨cl, 4 * n.toNat⟩ → (listedColors s cl.toNat n.toNat).Nodup →
    (listedColors s cl.toNat n.toNat).length ≤ (if s.unlimited then 255 else s.maxLimit.toNat) →
    ∃ t : State,
      exec (.mapbuild cl n) s = .next t ∧
        (∀ k, 1 ≤ k → k ≤ 255 → lutSlot t k = (listedColors s cl.toNat n.toNat).getD (k - 1) 0#24) ∧
        t.lutN.toNat = (listedColors s cl.toNat n.toNat).length ∧ t.lutValid = true ∧
        t = { s with lut := t.lut, lutN := t.lutN, lutValid := true, cmdPtr := s.cmdPtr + 16#32 }

/-- MAPBUILD raises BOUNDS, then DUP_COLOR at the first repeat, then COLOR_LIMIT. For every operand and state: a
list outside BUF aborts with BOUNDS; in BUF, the first entry whose opaque colour already occurred aborts with
DUP_COLOR (its index, its RGB); distinct colours above the effective limit abort with COLOR_LIMIT (their
number, the limit). Nothing else changes. (42_color_index_mapper.md R193, 60_exceptions.md R302,
60_exceptions.md R303) -/
def Obligations.MapbuildErrorsInOrder : Prop :=
  ∀ (cl n : Word) (s : State),
    (¬ inRange s ⟨cl, 4 * n.toNat⟩ →
      exec (.mapbuild cl n) s = .next (abortedState .bounds cl (reportedLength (4 * n.toNat)) s)) ∧
    (inRange s ⟨cl, 4 * n.toNat⟩ → ∀ i < n.toNat,
      128 ≤ channel (s.buf.readWord (cl.toNat + 4 * i)) 3 → (listedColors s cl.toNat i).Nodup →
      (s.buf.readWord (cl.toNat + 4 * i)).setWidth 24 ∈ listedColors s cl.toNat i →
      exec (.mapbuild cl n) s = .next (abortedState .dupColor (BitVec.ofNat 32 i)
        (BitVec.ofNat 32 ((s.buf.readWord (cl.toNat + 4 * i)).toNat % 2 ^ 24)) s)) ∧
    (inRange s ⟨cl, 4 * n.toNat⟩ → (listedColors s cl.toNat n.toNat).Nodup →
      (if s.unlimited then 255 else s.maxLimit.toNat) < (listedColors s cl.toNat n.toNat).length →
      exec (.mapbuild cl n) s = .next (abortedState .colorLimit
        (BitVec.ofNat 32 (listedColors s cl.toNat n.toNat).length)
        (BitVec.ofNat 32 (if s.unlimited then 255 else s.maxLimit.toNat)) s))

/-- A finite limit M accepts M distinct opaque colours and refuses M + 1. For every state with UNLIMITED = 0 and
MAX = M and every list of k distinct opaque colours in BUF: MAPBUILD builds the mapping when k = M, and aborts
with COLOR_LIMIT (M + 1, M) when k = M + 1. (R195) -/
def Obligations.ColorLimitBoundary : Prop :=
  ∀ (cl n : Word) (s : State), s.unlimited = false → inRange s ⟨cl, 4 * n.toNat⟩ →
    (listedColors s cl.toNat n.toNat).Nodup →
    ((listedColors s cl.toNat n.toNat).length = s.maxLimit.toNat →
      ∃ t : State, exec (.mapbuild cl n) s = .next t ∧ t.lutValid = true ∧ t.lutN = s.maxLimit ∧
        t.error = s.error ∧ t.cmdPtr = s.cmdPtr + 16#32) ∧
    ((listedColors s cl.toNat n.toNat).length = s.maxLimit.toNat + 1 →
      exec (.mapbuild cl n) s = .next (abortedState .colorLimit (BitVec.ofNat 32 (s.maxLimit.toNat + 1))
        (BitVec.ofNat 32 s.maxLimit.toNat) s))

/-- MAPLOOK writes the slot to RESULT, records a warning on a miss, and raises NO_MAP without a mapping. For every
pixel value and state: without a mapping it aborts with NO_MAP (0, 0); with one, RESULT becomes the slot (0
below alpha 128; the slot of the colour; 1 on a miss), a miss adds one to the saturating WARN_COUNT and
latches WARN_RGBA if the count was 0, CMD_PTR + 16, and every other field is unchanged.
(42_color_index_mapper.md R194, 60_exceptions.md R310) -/
def Obligations.MaplookCompletes : Prop :=
  ∀ (px : Word) (s : State),
    (s.lutValid = false → exec (.maplook px) s = .next (abortedState .noMap 0#32 0#32 s)) ∧
    (s.lutValid = true → channel px 3 < 128 →
      exec (.maplook px) s = .next { s with result := 0#32, cmdPtr := s.cmdPtr + 16#32 }) ∧
    (s.lutValid = true → 128 ≤ channel px 3 → ∀ k, 1 ≤ k → k ≤ s.lutN.toNat →
      (lutSlot s k).toNat = px.toNat % 2 ^ 24 →
      (∀ j, 1 ≤ j → j < k → (lutSlot s j).toNat ≠ px.toNat % 2 ^ 24) →
      exec (.maplook px) s = .next { s with result := BitVec.ofNat 32 k, cmdPtr := s.cmdPtr + 16#32 }) ∧
    (s.lutValid = true → 128 ≤ channel px 3 →
      (∀ j, 1 ≤ j → j ≤ s.lutN.toNat → (lutSlot s j).toNat ≠ px.toNat % 2 ^ 24) →
      exec (.maplook px) s = .next { s with
        result := 1#32
        warnCount := BitVec.ofNat 32 (min (s.warnCount.toNat + 1) 0xFFFFFFFF)
        warnRgba := if s.warnCount = 0#32 then px else s.warnRgba
        cmdPtr := s.cmdPtr + 16#32 })

/-- PLANAR2, INTER2 and BP4 put bit k of each slot in the plane byte of its row, leftmost pixel in bit 7. For
every 8 by 8 slot matrix, row y and column x: bit 7-x of the plane bytes at the places the three layouts give
them is the plane's bit of slot P[y][x]; the layouts have 16, 16 and 32 bytes. (R230, R231, R234) -/
def Obligations.PlanarLayouts : Prop :=
  ∀ rows : List (List Byte), IsSquare rows 8 →
    (patternBytes .planar2 rows).length = 16 ∧ (patternBytes .inter2 rows).length = 16 ∧
    (patternBytes .bp4 rows).length = 32 ∧
    ∀ y < 8, ∀ x < 8,
      ((patternBytes .planar2 rows).getD y 0).getLsbD (7 - x) = (slotAt rows y x).getLsbD 0 ∧
      ((patternBytes .planar2 rows).getD (8 + y) 0).getLsbD (7 - x) = (slotAt rows y x).getLsbD 1 ∧
      ((patternBytes .inter2 rows).getD (2 * y) 0).getLsbD (7 - x) = (slotAt rows y x).getLsbD 0 ∧
      ((patternBytes .inter2 rows).getD (2 * y + 1) 0).getLsbD (7 - x) = (slotAt rows y x).getLsbD 1 ∧
      ((patternBytes .bp4 rows).getD (2 * y) 0).getLsbD (7 - x) = (slotAt rows y x).getLsbD 0 ∧
      ((patternBytes .bp4 rows).getD (2 * y + 1) 0).getLsbD (7 - x) = (slotAt rows y x).getLsbD 1 ∧
      ((patternBytes .bp4 rows).getD (16 + 2 * y) 0).getLsbD (7 - x) = (slotAt rows y x).getLsbD 2 ∧
      ((patternBytes .bp4 rows).getD (16 + 2 * y + 1) 0).getLsbD (7 - x) = (slotAt rows y x).getLsbD 3

/-- NIB4H puts the left slot in the high nibble, NIB4L in the low nibble. For every 8 by 8 matrix of slots below
16, row y and pair j: byte 4y+j is 16*left + right in NIB4H and 16*right + left in NIB4L; both have 32 bytes.
(R232, R233) -/
def Obligations.NibbleLayouts : Prop :=
  ∀ rows : List (List Byte), IsSquare rows 8 → (∀ row ∈ rows, ∀ slot ∈ row, slot.toNat < 16) →
    (patternBytes .nib4h rows).length = 32 ∧ (patternBytes .nib4l rows).length = 32 ∧
    ∀ y < 8, ∀ j < 4,
      ((patternBytes .nib4h rows).getD (4 * y + j) 0).toNat =
        16 * (slotAt rows y (2 * j)).toNat + (slotAt rows y (2 * j + 1)).toNat ∧
      ((patternBytes .nib4l rows).getD (4 * y + j) 0).toNat =
        16 * (slotAt rows y (2 * j + 1)).toNat + (slotAt rows y (2 * j)).toNat

/-- LIN8 writes one byte per pixel, row-major. For every 8 by 8 slot matrix, row y and column x: byte 8y+x is the
slot, of 64 bytes. (R235) -/
def Obligations.LinearLayout : Prop :=
  ∀ rows : List (List Byte), IsSquare rows 8 →
    (patternBytes .lin8 rows).length = 64 ∧
    ∀ y < 8, ∀ x < 8, (patternBytes .lin8 rows).getD (8 * y + x) 0 = slotAt rows y x

/-- MONO1 sets a bit exactly for a nonzero slot: by row, in quadrants, or in row pairs. For every 8 by 8 matrix,
bit 7-x of byte y says whether P[y][x] is not 0; for every 16 by 16 matrix, the quadrant order (top-left,
bottom-left, top-right, bottom-right) and the row-pair order place the opacity bits as R237 lists them; the
colour bytes are T bytes of 16*fg for a foreground index of at most 15. (43_tile_encoder.md R236,
43_tile_encoder.md R237) -/
def Obligations.MonochromeLayouts : Prop :=
  (∀ rows : List (List Byte), IsSquare rows 8 →
      (patternBytes .mono1 rows).length = 8 ∧
      ∀ y < 8, ∀ x < 8,
        ((patternBytes .mono1 rows).getD y 0).getLsbD (7 - x) = decide (slotAt rows y x ≠ 0)) ∧
    (∀ rows : List (List Byte), IsSquare rows 16 →
      (patternBytes .mono1T16 rows).length = 32 ∧ (patternBytes .mono1T16Rows rows).length = 32 ∧
      (∀ q ∈ ([(0, 0, 0), (1, 0, 8), (2, 8, 0), (3, 8, 8)] : List (Nat × Nat × Nat)), ∀ r < 8, ∀ i < 8,
        ((patternBytes .mono1T16 rows).getD (8 * q.1 + r) 0).getLsbD (7 - i) =
          decide (slotAt rows (q.2.2 + r) (q.2.1 + i) ≠ 0)) ∧
      ∀ y < 16, ∀ h < 2, ∀ i < 8,
        ((patternBytes .mono1T16Rows rows).getD (2 * y + h) 0).getLsbD (7 - i) =
          decide (slotAt rows y (8 * h + i) ≠ 0)) ∧
    ∀ fg : Byte, fg.toNat ≤ 15 →
      colorBytes .mono1 fg = List.replicate 8 (BitVec.ofNat 8 (16 * fg.toNat)) ∧
      colorBytes .mono1T16 fg = List.replicate 16 (BitVec.ofNat 8 (16 * fg.toNat)) ∧
      colorBytes .mono1T16Rows fg = List.replicate 16 (BitVec.ofNat 8 (16 * fg.toNat))

/-- Every encoded tile has exactly its format's declared byte counts. For every layout with its T, pattern and
colour byte counts as R225 lists them, every frame base, width, tile and state: if the tile encodes, its
pattern and colour bytes have exactly those counts, whatever the pixels are. (R225) -/
def Obligations.EncodedTileLengths : Prop :=
  ∀ p ∈ ([(.planar2, 8, 16, 0), (.inter2, 8, 16, 0), (.nib4h, 8, 32, 0), (.nib4l, 8, 32, 0), (.bp4, 8, 32, 0),
        (.lin8, 8, 64, 0), (.mono1, 8, 8, 8), (.mono1T16, 16, 32, 16), (.mono1T16Rows, 16, 32, 16)] :
        List (TileLayout × Nat × Nat × Nat)),
    tileEdge p.1 = p.2.1 ∧ patternLength p.1 = p.2.2.1 ∧ colorLength p.1 = p.2.2.2 ∧
    ∀ (fb : Word) (w tx ty : Nat) (s : State) (e : Encoded),
      encodeTile p.1 fb w tx ty s = .ok e → e.pat.length = p.2.2.1 ∧ e.col.length = p.2.2.2

/-- TILE, in all nine variants, writes the tile's bytes at the pointers and nothing else. For tile.planar2,
tile.inter2, tile.nib4h, tile.nib4l, tile.bp4, tile.lin8, tile.mono1, tile.mono1.t16, tile.mono1.t16.rows
(constructors tilePlanar2, tileInter2, tileNib4h, tileNib4l, tileBp4, tileLin8, tileMono1, tileMono1T16,
tileMono1T16Rows, as tileInstr of each layout): for every operand and state in which the tile lies inside the
frame, a mapping is built, the ranges are in BUF and disjoint, every slot fits and (MONO1) the foreground
index is fg, exec answers a next state: the pattern bytes of the layout stand from OUT_PTR on, the colour
bytes 16*fg from COL_PTR on, every other byte of BUF is unchanged, both pointers advance by the byte counts,
one warning per miss is recorded in row-major order, CMD_PTR + 16, and every other field is unchanged.
(43_tile_encoder.md R222, 43_tile_encoder.md R223, 43_tile_encoder.md R238, 43_tile_encoder.md R240) -/
def Obligations.TileCompletes : Prop :=
  ∀ (L : TileLayout) (fb : Word) (w h tx ty : Half) (s : State) (fg : Nat),
    TileReady L fb w.toNat h.toNat tx.toNat ty.toNat s fg →
    ∃ t : State,
      exec (tileInstr L fb w h tx ty) s = .next t ∧
        (∀ j < patternLength L, t.buf.read (s.outPtr.toNat + j) =
          (patternBytes L (tileSlots L fb w.toNat tx.toNat ty.toNat s)).getD j 0) ∧
        (∀ j < colorLength L, t.buf.read (s.colPtr.toNat + j) = BitVec.ofNat 8 (16 * fg)) ∧
        (∀ a, ¬ (s.outPtr.toNat ≤ a ∧ a < s.outPtr.toNat + patternLength L) →
          ¬ (s.colPtr.toNat ≤ a ∧ a < s.colPtr.toNat + colorLength L) → t.buf.read a = s.buf.read a) ∧
        t = { s with
          buf := t.buf
          outPtr := s.outPtr + BitVec.ofNat 32 (patternLength L)
          colPtr := s.colPtr + BitVec.ofNat 32 (colorLength L)
          warnCount := countAfter s (tileMisses L fb w.toNat tx.toNat ty.toNat s).length
          warnRgba := rgbaAfter s (tileMisses L fb w.toNat tx.toNat ty.toNat s)
          cmdPtr := s.cmdPtr + 16#32 }

/-- TILE raises RANGE outside the frame, then NO_MAP, then BOUNDS and OVERLAP in their order. For all nine TILE
variants, every operand and state: a tile not inside the frame aborts with RANGE (W3, W2); inside, without a
mapping, NO_MAP; then the first of frame, output, colour output and (MONO1 with colours) fixed table that is
not in BUF aborts with BOUNDS; then the first overlapping pair, OUT_PTR's range before COL_PTR's, aborts with
OVERLAP. Nothing else changes. (43_tile_encoder.md R240, 20_memory.md R74, 20_memory.md R80, 60_exceptions.md
R302, 60_exceptions.md R303) -/
def Obligations.TileErrorsInOrder : Prop :=
  ∀ (L : TileLayout) (fb : Word) (w h tx ty : Half) (s : State),
    (w.toNat < (tx.toNat + 1) * tileEdge L ∨ h.toNat < (ty.toNat + 1) * tileEdge L →
      exec (tileInstr L fb w h tx ty) s = .next (abortedState .range
        (BitVec.ofNat 32 (ty.toNat * 65536 + tx.toNat)) (BitVec.ofNat 32 (h.toNat * 65536 + w.toNat)) s)) ∧
    ((tx.toNat + 1) * tileEdge L ≤ w.toNat → (ty.toNat + 1) * tileEdge L ≤ h.toNat →
      (s.lutValid = false →
        exec (tileInstr L fb w h tx ty) s = .next (abortedState .noMap 0#32 0#32 s)) ∧
      (s.lutValid = true →
        (∀ pre r post, tileRangesInOrder L fb w.toNat h.toNat 1 s = pre ++ r :: post →
          (∀ q ∈ pre, inRange s q) → ¬ inRange s r →
          exec (tileInstr L fb w h tx ty) s = .next (abortedState .bounds r.base (reportedLength r.len) s)) ∧
        ((∀ q ∈ tileRangesInOrder L fb w.toNat h.toNat 1 s, inRange s q) →
          ∀ pre p post, tilePairsInOrder L fb w.toNat h.toNat 1 s = pre ++ p :: post →
            (∀ q ∈ pre, ¬ overlaps q.1 q.2) → overlaps p.1 p.2 →
            exec (tileInstr L fb w h tx ty) s = .next (abortedState .overlap p.1.base p.2.base s))))

/-- TILE raises RANGE for the first slot too wide, and NOT_IN_PALETTE or RANGE for a MONO1 foreground. For all
nine TILE variants, with the tile inside the frame, a mapping built and all ranges in BUF and disjoint: not
MONO1, the first slot in row-major order of at least 2^bpp aborts with RANGE (the slot, 2^bpp); MONO1 with
colours, slot 1's colour missing from the fixed table aborts with NOT_IN_PALETTE (1, LUT[1]), and its first
entry's code above 15 aborts with RANGE (the code, 16). Nothing else changes. (43_tile_encoder.md R224,
43_tile_encoder.md R228, 43_tile_encoder.md R240, 60_exceptions.md R302) -/
def Obligations.TileContentErrors : Prop :=
  ∀ (L : TileLayout) (fb : Word) (w h tx ty : Half) (s : State),
    (tx.toNat + 1) * tileEdge L ≤ w.toNat → (ty.toNat + 1) * tileEdge L ≤ h.toNat → s.lutValid = true →
    TileRangesInside L fb w.toNat h.toNat 1 s → TileRangesDisjoint L fb w.toNat h.toNat 1 s →
    (isMono L = false → ∀ pre (slot : Byte) post,
      (tileSlots L fb w.toNat tx.toNat ty.toNat s).flatten = pre ++ slot :: post →
      (∀ q ∈ pre, q.toNat < 2 ^ bitsPerPixel L) → 2 ^ bitsPerPixel L ≤ slot.toNat →
      exec (tileInstr L fb w h tx ty) s = .next (abortedState .range (BitVec.ofNat 32 slot.toNat)
        (BitVec.ofNat 32 (2 ^ bitsPerPixel L)) s)) ∧
    (isMono L = true → 1 ≤ s.lutN.toNat →
      (∀ j < s.fixCount.toNat, (fixEntry s j).toNat % 2 ^ 24 ≠ (lutSlot s 1).toNat) →
      exec (tileInstr L fb w h tx ty) s = .next (abortedState .notInPalette 1#32
        (BitVec.ofNat 32 (lutSlot s 1).toNat) s)) ∧
    (isMono L = true → 1 ≤ s.lutN.toNat → ∀ i < s.fixCount.toNat,
      (fixEntry s i).toNat % 2 ^ 24 = (lutSlot s 1).toNat →
      (∀ j < i, (fixEntry s j).toNat % 2 ^ 24 ≠ (lutSlot s 1).toNat) → 15 < channel (fixEntry s i) 3 →
      exec (tileInstr L fb w h tx ty) s = .next (abortedState .range
        (BitVec.ofNat 32 (channel (fixEntry s i) 3)) 16#32 s))

/-- FRAME, in all nine variants, writes every tile in raster order and nothing else. For frame.planar2,
frame.inter2, frame.nib4h, frame.nib4l, frame.bp4, frame.lin8, frame.mono1, frame.mono1.t16,
frame.mono1.t16.rows (constructors framePlanar2, frameInter2, frameNib4h, frameNib4l, frameBp4, frameLin8,
frameMono1, frameMono1T16, frameMono1T16Rows, as frameInstr of each layout): for every operand and state in
which both dimensions are nonzero multiples of T, a mapping is built, the ranges are in BUF and disjoint,
every slot of every tile fits and (MONO1) the foreground index is fg, exec answers a next state: tile (tx, ty)
stands at OUT_PTR + (ty*nx+tx)*plen, the colour bytes 16*fg from COL_PTR on, every other byte of BUF is
unchanged, both pointers advance by all the bytes, one warning per miss in tile order, CMD_PTR + 16, and every
other field is unchanged. (43_tile_encoder.md R241, 43_tile_encoder.md R243) -/
def Obligations.FrameCompletes : Prop :=
  ∀ (L : TileLayout) (fb : Word) (w h : Half) (s : State) (fg nx ny : Nat),
    FrameReady L fb w.toNat h.toNat s fg → nx = w.toNat / tileEdge L → ny = h.toNat / tileEdge L →
    ∃ t : State,
      exec (frameInstr L fb w h) s = .next t ∧
        (∀ ty < ny, ∀ tx < nx, ∀ j < patternLength L,
          t.buf.read (s.outPtr.toNat + (ty * nx + tx) * patternLength L + j) =
            (patternBytes L (tileSlots L fb w.toNat tx ty s)).getD j 0) ∧
        (∀ j < nx * ny * colorLength L, t.buf.read (s.colPtr.toNat + j) = BitVec.ofNat 8 (16 * fg)) ∧
        (∀ a, ¬ (s.outPtr.toNat ≤ a ∧ a < s.outPtr.toNat + nx * ny * patternLength L) →
          ¬ (s.colPtr.toNat ≤ a ∧ a < s.colPtr.toNat + nx * ny * colorLength L) →
          t.buf.read a = s.buf.read a) ∧
        t = { s with
          buf := t.buf
          outPtr := s.outPtr + BitVec.ofNat 32 (nx * ny * patternLength L)
          colPtr := s.colPtr + BitVec.ofNat 32 (nx * ny * colorLength L)
          warnCount := countAfter s
            ((rasterTiles L w.toNat h.toNat).flatMap fun c => tileMisses L fb w.toNat c.1 c.2 s).length
          warnRgba := rgbaAfter s
            ((rasterTiles L w.toNat h.toNat).flatMap fun c => tileMisses L fb w.toNat c.1 c.2 s)
          cmdPtr := s.cmdPtr + 16#32 }

/-- FRAME raises DIMENSION with one flag and one suggested value per failing axis. For all nine FRAME variants,
every operand and state: when the width or the height is 0 or not a multiple of T, exec aborts with DIMENSION,
ERR_A holding the width's flag in bit 0 and the height's in bit 1, ERR_B the suggested height and width (T for
0, else the next multiple of T, or the previous one where the next exceeds 65535), 0 for an axis that passes;
it comes before NO_MAP. (43_tile_encoder.md R242, 60_exceptions.md R302) -/
def Obligations.FrameDimensionErrors : Prop :=
  ∀ (L : TileLayout) (fb : Word) (w h : Half) (s : State) (fails : Nat → Bool) (sug : Nat → Nat),
    (∀ v, fails v = true ↔ v = 0 ∨ ¬ tileEdge L ∣ v) →
    (∀ v, fails v = false → sug v = 0) → (fails 0 = true → sug 0 = tileEdge L) →
    (∀ v, v ≠ 0 → fails v = true →
      tileEdge L ∣ sug v ∧ (v / tileEdge L * tileEdge L + tileEdge L ≤ 65535 → v < sug v ∧ sug v < v + tileEdge L) ∧
        (65535 < v / tileEdge L * tileEdge L + tileEdge L → sug v ≤ v ∧ v < sug v + tileEdge L)) →
    (fails w.toNat = true ∨ fails h.toNat = true) →
    exec (frameInstr L fb w h) s = .next (abortedState .dimension
      (BitVec.ofNat 32 ((fails w.toNat).toNat + 2 * (fails h.toNat).toNat))
      (BitVec.ofNat 32 (sug h.toNat * 65536 + sug w.toNat)) s)

/-- After the dimension check FRAME raises NO_MAP, BOUNDS, OVERLAP, then its first failing tile's error. For all
nine FRAME variants, with both dimensions nonzero multiples of T: without a mapping NO_MAP; then the first
range not in BUF aborts with BOUNDS; then the first overlapping pair with OVERLAP; then, not MONO1, the first
slot too wide of the first tile in raster order that has one aborts with RANGE (the slot, 2^bpp), and, MONO1
with colours, slot 1's colour missing from the fixed table aborts with NOT_IN_PALETTE (1, LUT[1]) and its
first entry's code above 15 with RANGE (the code, 16). Nothing else changes, so no tile of the frame is
written. (43_tile_encoder.md R241, 43_tile_encoder.md R224, 43_tile_encoder.md R228, 60_exceptions.md R302,
60_exceptions.md R303) -/
def Obligations.FrameErrorsInOrder : Prop :=
  ∀ (L : TileLayout) (fb : Word) (w h : Half) (s : State) (n : Nat),
    0 < w.toNat → w.toNat % tileEdge L = 0 → 0 < h.toNat → h.toNat % tileEdge L = 0 →
    n = w.toNat / tileEdge L * (h.toNat / tileEdge L) →
    (s.lutValid = false → exec (frameInstr L fb w h) s = .next (abortedState .noMap 0#32 0#32 s)) ∧
    (s.lutValid = true →
      (∀ pre r post, tileRangesInOrder L fb w.toNat h.toNat n s = pre ++ r :: post →
        (∀ q ∈ pre, inRange s q) → ¬ inRange s r →
        exec (frameInstr L fb w h) s = .next (abortedState .bounds r.base (reportedLength r.len) s)) ∧
      ((∀ q ∈ tileRangesInOrder L fb w.toNat h.toNat n s, inRange s q) →
        (∀ pre p post, tilePairsInOrder L fb w.toNat h.toNat n s = pre ++ p :: post →
          (∀ q ∈ pre, ¬ overlaps q.1 q.2) → overlaps p.1 p.2 →
          exec (frameInstr L fb w h) s = .next (abortedState .overlap p.1.base p.2.base s)) ∧
        ((∀ q ∈ tilePairsInOrder L fb w.toNat h.toNat n s, ¬ overlaps q.1 q.2) → isMono L = false →
          ∀ pre (slot : Byte) post,
            ((rasterTiles L w.toNat h.toNat).flatMap fun c => (tileSlots L fb w.toNat c.1 c.2 s).flatten) =
              pre ++ slot :: post →
            (∀ q ∈ pre, q.toNat < 2 ^ bitsPerPixel L) → 2 ^ bitsPerPixel L ≤ slot.toNat →
            exec (frameInstr L fb w h) s = .next (abortedState .range (BitVec.ofNat 32 slot.toNat)
              (BitVec.ofNat 32 (2 ^ bitsPerPixel L)) s)) ∧
        ((∀ q ∈ tilePairsInOrder L fb w.toNat h.toNat n s, ¬ overlaps q.1 q.2) → isMono L = true →
          1 ≤ s.lutN.toNat →
          ((∀ j < s.fixCount.toNat, (fixEntry s j).toNat % 2 ^ 24 ≠ (lutSlot s 1).toNat) →
            exec (frameInstr L fb w h) s = .next (abortedState .notInPalette 1#32
              (BitVec.ofNat 32 (lutSlot s 1).toNat) s)) ∧
          ∀ i < s.fixCount.toNat, (fixEntry s i).toNat % 2 ^ 24 = (lutSlot s 1).toNat →
            (∀ j < i, (fixEntry s j).toNat % 2 ^ 24 ≠ (lutSlot s 1).toNat) → 15 < channel (fixEntry s i) 3 →
            exec (frameInstr L fb w h) s = .next (abortedState .range
              (BitVec.ofNat 32 (channel (fixEntry s i) 3)) 16#32 s))))

/-- A FRAME that completes does what TILE commands over all its tiles in raster order do. For all nine variants,
every operand and every well-formed state: if FRAME completes in t, then executing the TILE commands of all
its tiles from the same state, left to right and top to bottom, aborts nowhere and ends with the same byte at
every address of BUF, the same OUT_PTR, COL_PTR, WARN_COUNT and WARN_RGBA, and every other field of t but
CMD_PTR, which has advanced by 16 per tile. (43_tile_encoder.md R240, 43_tile_encoder.md R241,
43_tile_encoder.md R243, 20_memory.md R87) -/
def Obligations.FrameIsItsTilesInRasterOrder : Prop :=
  ∀ (L : TileLayout) (fb : Word) (w h : Half) (s t : State), Inv s →
    exec (frameInstr L fb w h) s = .next t → t.cmdPtr = s.cmdPtr + 16#32 →
    ∃ u : State,
      runCommands ((rasterTiles L w.toNat h.toNat).map fun c =>
        tileInstr L fb w h (BitVec.ofNat 16 c.1) (BitVec.ofNat 16 c.2)) s = some u ∧
      (∀ a, u.buf.read a = t.buf.read a) ∧
      u = { t with
        buf := u.buf
        cmdPtr := s.cmdPtr + BitVec.ofNat 32 (16 * (w.toNat / tileEdge L * (h.toNat / tileEdge L))) }

/-- The four arithmetic palette layouts place the channel codes as their rules say. For every 24-bit colour: the
SMS byte is r + 4g + 16b of the 2-bit codes; the GEN bytes are 2r + 32g and 2b of the 3-bit codes, low byte
first, or high byte first with HF; the BGR555 bytes are the little-endian halves of 1024b + 32g + r of the
5-bit codes; the MSX2 bytes are 16r + g and 16b of the 3-bit codes. (R276, R277, R278, R279) -/
def Obligations.PaletteSlotBytes : Prop :=
  ∀ (f : PalFormat) (s : State) (k : Nat) (x : Rgb), f ≠ .fixed → slotBytes f s k x = .ok (slotBytesOf f s x)

/-- PAL, in all six variants, writes S*E bytes: slot 0 zero, the mapping's slots, zero padding. For pal.sms,
pal.gen, pal.bgr555, pal.msx2, pal.fixed, pal.gen.hf (constructors palSms, palGen, palBgr555, palMsx2,
palFixed, palGenHf, as palInstr of each format): for every slot count and state with a mapping built that fits
the slots, the output in BUF and (FIXED) the table in BUF, disjoint from the output and holding every colour,
exec answers a next state: slot 0 and the slots above LUT_N are zero bytes, slot k holds the format's bytes of
LUT[k], every other byte of BUF is unchanged, OUT_PTR advances by S*E, CMD_PTR + 16, and every other field is
unchanged. (44_palette_serializer.md R270, 44_palette_serializer.md R271, 44_palette_serializer.md R273,
44_palette_serializer.md R274, 44_palette_serializer.md R280) -/
def Obligations.PalCompletes : Prop :=
  ∀ (f : PalFormat) (n : SlotCount) (s : State), PalReady f n s →
    ∃ t : State,
      exec (palInstr f n) s = .next t ∧
        (∀ k < slotCount n, ∀ j < bytesPerSlot f,
          t.buf.read (s.outPtr.toNat + k * bytesPerSlot f + j) =
            if 1 ≤ k ∧ k ≤ s.lutN.toNat then (slotBytesOf f s (lutSlot s k)).getD j 0 else 0) ∧
        (∀ a, ¬ (s.outPtr.toNat ≤ a ∧ a < s.outPtr.toNat + slotCount n * bytesPerSlot f) →
          t.buf.read a = s.buf.read a) ∧
        t = { s with
          buf := t.buf
          outPtr := s.outPtr + BitVec.ofNat 32 (slotCount n * bytesPerSlot f)
          cmdPtr := s.cmdPtr + 16#32 }

/-- PAL raises NO_MAP, RANGE, BOUNDS, OVERLAP and NOT_IN_PALETTE in that order. For all six PAL variants, every
slot count and state: no mapping NO_MAP; more colours than slots RANGE (LUT_N + 1, S); the output not in BUF
BOUNDS; and for FIXED the table not in BUF BOUNDS, the output overlapping it OVERLAP, and the lowest slot
whose colour is not in the table NOT_IN_PALETTE (the slot, its colour). Nothing else changes.
(44_palette_serializer.md R273, 44_palette_serializer.md R280, 60_exceptions.md R302, 60_exceptions.md R303) -/
def Obligations.PalErrorsInOrder : Prop :=
  ∀ (f : PalFormat) (n : SlotCount) (s : State) (out fix : ByteRange),
    out = ⟨s.outPtr, slotCount n * bytesPerSlot f⟩ → fix = ⟨s.fixBase, 4 * s.fixCount.toNat⟩ →
    (s.lutValid = false → exec (palInstr f n) s = .next (abortedState .noMap 0#32 0#32 s)) ∧
    (s.lutValid = true → slotCount n < s.lutN.toNat + 1 →
      exec (palInstr f n) s = .next (abortedState .range (BitVec.ofNat 32 (s.lutN.toNat + 1))
        (BitVec.ofNat 32 (slotCount n)) s)) ∧
    (s.lutValid = true → s.lutN.toNat + 1 ≤ slotCount n →
      (¬ inRange s out →
        exec (palInstr f n) s = .next (abortedState .bounds s.outPtr (reportedLength out.len) s)) ∧
      (inRange s out → f = .fixed →
        (¬ inRange s fix →
          exec (palInstr f n) s = .next (abortedState .bounds s.fixBase (reportedLength fix.len) s)) ∧
        (inRange s fix → overlaps out fix →
          exec (palInstr f n) s = .next (abortedState .overlap s.outPtr s.fixBase s)) ∧
        (inRange s fix → ¬ overlaps out fix → ∀ k, 1 ≤ k → k ≤ s.lutN.toNat →
          (∀ i < s.fixCount.toNat, (fixEntry s i).toNat % 2 ^ 24 ≠ (lutSlot s k).toNat) →
          (∀ j, 1 ≤ j → j < k →
            ∃ i < s.fixCount.toNat, (fixEntry s i).toNat % 2 ^ 24 = (lutSlot s j).toNat) →
          exec (palInstr f n) s = .next (abortedState .notInPalette (BitVec.ofNat 32 k)
            (BitVec.ofNat 32 (lutSlot s k).toNat) s))))

/-- Every command completes with CMD_PTR + 16 or aborts with nothing else changed. For every instruction and state
exec answers a next state, and it is either one whose CMD_PTR advanced by 16 with ERROR, ERRCODE, ERR_A and
ERR_B as before, or the state before with ERROR = 1, a nonzero ERRCODE and info words written and BUSY = 0: no
other field, no byte of BUF, no pointer, no LUT slot, RESULT or warning changes on an abort. (60_exceptions.md
R304, 60_exceptions.md R305) -/
def Obligations.EveryCommandCompletesOrAborts : Prop :=
  ∀ (i : Instr) (s : State), ∃ t : State,
    exec i s = .next t ∧
      ((t.cmdPtr = s.cmdPtr + 16#32 ∧ t.error = s.error ∧ t.errCode = s.errCode ∧ t.errA = s.errA ∧ t.errB = s.errB) ∨
        ∃ code a b, code ≠ ErrCode.none ∧ t = abortedState code a b s)

/-- No command writes CTRL, MAXCOLORS, FIX_BASE or FIX_COUNT. For every instruction and states: if exec answers t,
then IE, MAX, UNLIMITED, FIX_BASE, FIX_COUNT, MEM_SIZE and the host's actions to come are those of s, ERROR is
kept or set by an abort, and DONE is kept unless the instruction is end. (60_exceptions.md R313) -/
def Obligations.NoCommandWritesHostRegisters : Prop :=
  ∀ (i : Instr) (s t : State), exec i s = .next t →
    t.ie = s.ie ∧ t.maxLimit = s.maxLimit ∧ t.unlimited = s.unlimited ∧ t.fixBase = s.fixBase ∧
      t.fixCount = s.fixCount ∧ t.memSize = s.memSize ∧ t.host = s.host ∧
      (i ≠ .endStream → t.done = s.done) ∧ (s.error = true → t.error = true)

/-- A command changes BUF only from OUT_PTR and COL_PTR up to where it leaves them. For every instruction, well-
formed state s and t: if exec answers t, every address outside [OUT_PTR before, OUT_PTR after) and [COL_PTR
before, COL_PTR after) reads as before, and every instruction but SETOUT leaves each pointer where it is or
moves it upwards inside BUF; every instruction that is no tile, frame or pal leaves all of BUF as it was.
(20_memory.md R70, 10_state.md R35, 10_state.md R36) -/
def Obligations.BufIsWrittenOnlyAtThePointers : Prop :=
  ∀ (i : Instr) (s t : State), Inv s → exec i s = .next t →
    (∀ a, ¬ (s.outPtr.toNat ≤ a ∧ a < t.outPtr.toNat) → ¬ (s.colPtr.toNat ≤ a ∧ a < t.colPtr.toNat) →
      t.buf.read a = s.buf.read a) ∧
    ((∃ out col, i = .setout out col) ∨
      ((t.outPtr = s.outPtr ∨ (s.outPtr.toNat ≤ t.outPtr.toNat ∧ t.outPtr.toNat ≤ s.memSize)) ∧
        (t.colPtr = s.colPtr ∨ (s.colPtr.toNat ≤ t.colPtr.toNat ∧ t.colPtr.toNat ≤ s.memSize)))) ∧
    ((∀ L fb w h tx ty, i ≠ tileInstr L fb w h tx ty) → (∀ L fb w h, i ≠ frameInstr L fb w h) →
      (∀ f n, i ≠ palInstr f n) → t.buf = s.buf)

/-- END is the only command that stops the block other than by an abort. For every instruction and states: if exec
takes a busy state to one that is not busy, the instruction is end or the state has ERROR = 1; and end leaves
DONE = 1. (60_exceptions.md R314, 40_stream_control.md R145) -/
def Obligations.OnlyEndStopsWithoutAnError : Prop :=
  ∀ (i : Instr) (s t : State), exec i s = .next t → s.busy = true → t.busy = false →
    (i = .endStream ∧ t.done = true) ∨ t.error = true

/-- STATUS reads BUSY, DONE, ERROR, live WARN, live IRQ and the code of the error. For every state: bits 0..4 of
STATUS are BUSY, DONE, ERROR, WARN_COUNT != 0 and IE & (DONE | ERROR), bits 15:8 the error code 0x00..0x0A of
R301, every other bit 0; the irq line equals bit 4. (10_state.md R34, 60_exceptions.md R301, 60_exceptions.md
R308) -/
def Obligations.StatusWordLayout : Prop :=
  ∀ s : State,
    (readReg s 0x002).toNat =
      s.busy.toNat + 2 * s.done.toNat + 4 * s.error.toNat + 8 * (decide (s.warnCount ≠ 0#32)).toNat +
        16 * (s.ie && (s.done || s.error)).toNat + 256 * s.errCode.byte.toNat ∧
    irq s = (s.ie && (s.done || s.error)) ∧
    [ErrCode.none, .illegal, .align, .bounds, .overlap, .dimension, .colorLimit, .dupColor, .noMap, .range,
      .notInPalette].map (fun c => c.byte.toNat) = List.range 11

/-- A CTRL write performs SRST alone, or IE, then CLRWARN, then GO, the last two only while idle. For every state,
value and later actions, the host's next action being a write of CTRL: with SRST the registers and the LUT
take their reset values and BUF is kept; otherwise IE is written and, while busy, nothing else; while idle
CLRWARN clears the warnings and GO starts the stream, clearing DONE, ERROR, ERRCODE, ERR_A and ERR_B. CTRL
reads IE in bit 2 and 0 elsewhere. (10_state.md R32, 40_stream_control.md R140, 60_exceptions.md R306,
60_exceptions.md R311, 70_reset_and_hazards.md R340) -/
def Obligations.CtrlWriteActsInOrder : Prop :=
  ∀ (s : State) (v : Word) (rest : List HostAction),
    (v.getLsbD 3 = true → step { s with host := .writeReg 0x001 v :: rest } =
      .next { State.reset with memSize := s.memSize, host := rest, buf := s.buf }) ∧
    (v.getLsbD 3 = false → s.busy = true → step { s with host := .writeReg 0x001 v :: rest } =
      .next { s with host := rest, ie := v.getLsbD 2 }) ∧
    (v.getLsbD 3 = false → s.busy = false → v.getLsbD 0 = false →
      step { s with host := .writeReg 0x001 v :: rest } = .next { s with
        host := rest
        ie := v.getLsbD 2
        warnCount := if v.getLsbD 1 then 0#32 else s.warnCount
        warnRgba := if v.getLsbD 1 then 0#32 else s.warnRgba }) ∧
    (v.getLsbD 3 = false → s.busy = false → v.getLsbD 0 = true →
      step { s with host := .writeReg 0x001 v :: rest } = .next { s with
        host := rest
        ie := v.getLsbD 2
        warnCount := if v.getLsbD 1 then 0#32 else s.warnCount
        warnRgba := if v.getLsbD 1 then 0#32 else s.warnRgba
        busy := true
        done := false
        error := false
        errCode := .none
        errA := 0#32
        errB := 0#32 }) ∧
    readReg s 0x001 = if s.ie then 4#32 else 0#32

/-- The RW-when-idle registers take a host write while idle and ignore it while busy. For every state, value and
later actions, the host's next action being a write of a register other than CTRL: while busy it changes
nothing; while idle CMD_PTR, OUT_PTR, COL_PTR and FIX_BASE take the value, MAXCOLORS its bits 7:0 and 31,
FIX_COUNT min(v, 256); every other index ignores it. Read-only and reserved registers ignore every write.
(10_state.md R30, 10_state.md R37, 10_state.md R38, 10_state.md R45, 60_exceptions.md R330) -/
def Obligations.HostWritesOfOtherRegisters : Prop :=
  ∀ (s : State) (v : Word) (rest : List HostAction),
    (s.busy = true → ∀ k, k ≠ 0x001 →
      step { s with host := .writeReg k v :: rest } = .next { s with host := rest }) ∧
    (s.busy = false →
      step { s with host := .writeReg 0x003 v :: rest } = .next { s with host := rest, cmdPtr := v } ∧
      step { s with host := .writeReg 0x004 v :: rest } = .next { s with host := rest, outPtr := v } ∧
      step { s with host := .writeReg 0x005 v :: rest } = .next { s with host := rest, colPtr := v } ∧
      step { s with host := .writeReg 0x006 v :: rest } =
        .next { s with host := rest, maxLimit := v.setWidth 8, unlimited := v.getLsbD 31 } ∧
      step { s with host := .writeReg 0x007 v :: rest } = .next { s with host := rest, fixBase := v } ∧
      step { s with host := .writeReg 0x008 v :: rest } =
        .next { s with host := rest, fixCount := BitVec.ofNat 9 (min v.toNat 256) } ∧
      ∀ k, k = 0x000 ∨ k = 0x002 ∨ 0x009 ≤ k →
        step { s with host := .writeReg k v :: rest } = .next { s with host := rest })

/-- The register port reads each register's word, exact while idle and of some boundary since GO while busy. For
every state: ID reads its constant, every other register of R30 its field, MAXCOLORS UNLIMITED in bit 31 and
MAX in 7:0, LUT_STAT LUT_VALID in bit 31 and LUT_N in 7:0, index 0x100 + k the colour of slot k when the
mapping is valid and 1 ≤ k ≤ LUT_N and 0 otherwise, and every reserved index 0. For every run, index and word:
boundary 0 is the run's origin and each further boundary is what the step answers; at an idle boundary, and at
the first busy one after it, a host read may return only the current word; at a later busy boundary it may
return the current word and whatever it could return at the boundary before, and nothing else (log 7).
(10_state.md R30, 10_state.md R31, 10_state.md R37, 10_state.md R41, 10_state.md R42, 10_state.md R45,
60_exceptions.md R330, 93_implementation_defined.md P5) -/
def Obligations.RegisterReads : Prop :=
  (∀ s : State,
    readReg s 0x000 = 0x52500701#32 ∧ readReg s 0x003 = s.cmdPtr ∧ readReg s 0x004 = s.outPtr ∧
    readReg s 0x005 = s.colPtr ∧
    (readReg s 0x006).toNat = 2 ^ 31 * s.unlimited.toNat + s.maxLimit.toNat ∧
    readReg s 0x007 = s.fixBase ∧ (readReg s 0x008).toNat = s.fixCount.toNat ∧
    readReg s 0x009 = s.errA ∧ readReg s 0x00A = s.errB ∧ readReg s 0x00B = s.warnCount ∧
    readReg s 0x00C = s.warnRgba ∧
    (readReg s 0x00D).toNat = 2 ^ 31 * s.lutValid.toNat + s.lutN.toNat ∧ readReg s 0x00E = s.result ∧
    (∀ k < 256, (readReg s (0x100 + k)).toNat =
      if s.lutValid = true ∧ 1 ≤ k ∧ k ≤ s.lutN.toNat then (lutSlot s k).toNat else 0) ∧
    ∀ k, (0x00F ≤ k ∧ k ≤ 0x0FF) ∨ 0x200 ≤ k → readReg s k = 0#32) ∧
  ∀ (origin : State) (n index : Nat) (v : Word),
    boundary 0 origin = origin ∧
    (∀ t : State, step (boundary n origin) = .next t → boundary (n + 1) origin = t) ∧
    ((boundary n origin).busy = false →
      (MayReadReg origin n index v ↔ v = readReg (boundary n origin) index) ∧
      (MayReadReg origin (n + 1) index v ↔ v = readReg (boundary (n + 1) origin) index)) ∧
    ((boundary n origin).busy = true → (boundary (n + 1) origin).busy = true →
      (MayReadReg origin (n + 1) index v ↔
        v = readReg (boundary (n + 1) origin) index ∨ MayReadReg origin n index v))

/-- After either reset every register reads its stated reset value. For the state after reset, every state that a
power-on reset leaves and every state that a CTRL write with SRST leaves: ID reads 0x52500701, MAXCOLORS
0x80000000, every other register of the port and every index of the LUT window 0, the irq line is 0, every
stored LUT colour is 0, and every field but MEM_SIZE, BUF and the host's later actions is that of State.reset.
(R341) -/
def Obligations.ResetValues : Prop :=
  ∀ (s t : State) (cells : List Host.Cell) (v : Word) (rest : List HostAction),
    (t = State.reset ∨ step { s with host := .powerOn cells :: rest } = .next t ∨
      (v.getLsbD 3 = true ∧ step { s with host := .writeReg 0x001 v :: rest } = .next t)) →
    readReg t 0x000 = 0x52500701#32 ∧ readReg t 0x006 = 0x80000000#32 ∧
      (∀ k ∈ ([0x001, 0x002, 0x003, 0x004, 0x005, 0x007, 0x008, 0x009, 0x00A, 0x00B, 0x00C, 0x00D, 0x00E] :
        List Nat), readReg t k = 0#32) ∧
      (∀ k, 0x100 ≤ k → k ≤ 0x1FF → readReg t k = 0#32) ∧ irq t = false ∧ (∀ k, lutSlot t k = 0#24) ∧
      t = { State.reset with memSize := t.memSize, host := t.host, buf := t.buf }

/-- Power-on reset restores every register at any time and leaves BUF as drawn. For every state, cells and later
actions, the next action being a power-on reset: the next state has every register of State.reset, and each
address below MEM_SIZE reads the byte of the first listed cell for it, or what unwritten bytes read where none
is listed (the model's choice, log 2; the drawn contents are the action's argument, log 11).
(70_reset_and_hazards.md R340, 70_reset_and_hazards.md R342, 70_reset_and_hazards.md R341) -/
def Obligations.PowerOnResetDrawsBuf : Prop :=
  ∀ (s : State) (cells : List Host.Cell) (rest : List HostAction), ∃ t : State,
    step { s with host := .powerOn cells :: rest } = .next t ∧
      t = { State.reset with memSize := s.memSize, host := rest, buf := t.buf } ∧
      ∀ a < s.memSize, t.buf.read a =
        ((cells.find? fun c => decide (c.1 = a)).map fun c => c.2).getD Config.unwrittenByte

/-- A host load writes BUF while idle, is refused while busy, and faults outside BUF. For every state, base, bytes
and later actions, the host's next action being a load: while idle and inside BUF the bytes stand at their
addresses, every other byte and every register are unchanged; while busy the model refuses it by name (P1, log
6); outside BUF it faults by name (log 12). (60_exceptions.md R330, 93_implementation_defined.md P1,
20_memory.md R70) -/
def Obligations.HostLoadsBufOnlyWhileIdle : Prop :=
  ∀ (s : State) (base : Nat) (bs : List Byte) (rest : List HostAction),
    (s.busy = false → base + bs.length ≤ s.memSize → ∃ t : State,
      step { s with host := .loadBuf base bs :: rest } = .next t ∧
        (∀ j < bs.length, t.buf.read (base + j) = bs.getD j 0) ∧
        (∀ a, ¬ (base ≤ a ∧ a < base + bs.length) → t.buf.read a = s.buf.read a) ∧
        t = { s with host := rest, buf := t.buf }) ∧
    (s.busy = true →
      step { s with host := .loadBuf base bs :: rest } = .refused .hostWroteBufWhileBusy) ∧
    (s.busy = false → s.memSize < base + bs.length →
      step { s with host := .loadBuf base bs :: rest } = .fault .hostOutsideBuf)

/-- A host read of BUF is exact while idle and drawn from the command boundaries ahead while busy. For every state
with no host action to come, address and byte. At an address of BUF: while idle a host read may return only
the current byte; while busy it may return the current byte and whatever it may return after the next step,
and nothing else (log 7). At an address of MEM_SIZE or above it may return any byte (the model's choice, log
17). (20_memory.md R82, 93_implementation_defined.md P3) -/
def Obligations.HostReadsOfBufAreDrawnFromBoundaries : Prop :=
  ∀ (s : State) (a : Nat) (v : Byte), s.host = [] →
    (a < s.memSize → s.busy = false → (MayReadBuf s a v ↔ v = s.buf.read a)) ∧
    (a < s.memSize → s.busy = true → ∀ t : State, step s = .next t →
      (MayReadBuf s a v ↔ v = s.buf.read a ∨ MayReadBuf t a v)) ∧
    (s.memSize ≤ a → MayReadBuf s a v)

/-- The state after reset satisfies the machine's invariant. State.reset has a canonical memory inside a legal
MEM_SIZE, a consistent status, an empty mapping and registers in range. The memory part rests on the model's
choice: MEM_SIZE is 2^20 (DESIGN CHOICE, log 1) and BUF lists no byte (DESIGN CHOICE, log 2); the other parts
rest on the reset values of R341. (70_reset_and_hazards.md R341, 00_scope.md R7, 20_memory.md R70) -/
def Obligations.ResetIsWellFormed : Prop :=
  Inv State.reset

/-- Every step keeps BUF canonical and inside MEM_SIZE. For every state with a canonical memory that lists only
addresses below a legal MEM_SIZE: whatever step answers next, a command, an abort or an action of the host or
the platform, has such a memory. (20_memory.md R70, 20_memory.md R74, 00_scope.md R7) -/
def Obligations.StepKeepsMemoryOk : Prop :=
  ∀ s t : State, MemoryOk s → step s = .next t → MemoryOk t

/-- Every step keeps DONE and ERROR exclusive, neither while busy, and an error code exactly with ERROR. For every
state with a consistent status: whatever step answers next, a command, an abort or an action of the host or
the platform, has DONE and ERROR not both 1, neither while BUSY = 1, ERRCODE nonzero exactly when ERROR = 1,
and ERR_A = ERR_B = 0 without an error. (10_state.md R34, 60_exceptions.md R304, 40_stream_control.md R140) -/
def Obligations.StepKeepsStatusOk : Prop :=
  ∀ s t : State, StatusOk s → step s = .next t → StatusOk t

/-- Every step keeps the mapped colours distinct and the slots above LUT_N empty. For every state whose colours
LUT[1..LUT_N] are distinct, whose slots above LUT_N are 0 and whose mapping is empty while not valid: whatever
step answers next is such a state. (10_state.md R41) -/
def Obligations.StepKeepsLutOk : Prop :=
  ∀ s t : State, LutOk s → step s = .next t → LutOk t

/-- Every step keeps FIX_COUNT at most 256 and no first miss latched while WARN_COUNT is 0. For every state with
FIX_COUNT at most 256 and WARN_RGBA = 0 while WARN_COUNT = 0: whatever step answers next is such a state.
(10_state.md R38, 10_state.md R43) -/
def Obligations.StepKeepsRegistersOk : Prop :=
  ∀ s t : State, RegistersOk s → step s = .next t → RegistersOk t

/-- Every stream stops after at most MEM_SIZE/16 + 1 steps. For every state with a legal MEM_SIZE and no host
action to come, some number k of at most floor(MEM_SIZE/16) + 1 steps of the machine answers a state with BUSY
= 0, without any fault or refusal. (40_stream_control.md R144) -/
def Obligations.EveryStreamTerminates : Prop :=
  ∀ s : State, MemoryOk s → s.host = [] →
    ∃ k ≤ s.memSize / 16 + 1, ∃ t : State, Host.Core.run Sys2Proof.core k s = .next t ∧ Stopped t
end

