-- ==== Sys2Proof/Laws/Memory.lean ====
section
/-! SUPPORT. The laws of BUF: a read after a write, the bytes a write leaves alone, and the canonical form,
which every memory operation keeps. -/

namespace Sys2Proof.Machine

/-! ## Reads after an erase, an insert and a write -/

@[simp] theorem Memory.read_nil (a : Nat) : Memory.read [] a = Config.unwrittenByte := rfl

theorem Memory.read_cons (k : Nat) (v : Byte) (rest : Memory) (a : Nat) :
    Memory.read ((k, v) :: rest) a = if k = a then v else Memory.read rest a := rfl

theorem Memory.read_erase_self (m : Memory) (a : Nat) : (m.erase a).read a = Config.unwrittenByte := by
  induction m with
  | nil => rfl
  | cons c rest ih =>
    obtain ⟨k, v⟩ := c
    unfold Memory.erase at ih ⊢
    by_cases h : k = a
    · simpa [h] using ih
    · simp only [ne_eq, h, not_false_eq_true, decide_true, List.filter_cons_of_pos, Memory.read_cons, if_false]
      exact ih

theorem Memory.read_erase_of_ne (m : Memory) {a b : Nat} (h : b ≠ a) : (m.erase a).read b = m.read b := by
  induction m with
  | nil => rfl
  | cons c rest ih =>
    obtain ⟨k, v⟩ := c
    unfold Memory.erase at ih ⊢
    by_cases hk : k = a
    · have hb : ¬ k = b := fun e => h (e ▸ hk)
      simpa [hk, Memory.read_cons, hb, Ne.symm h] using ih
    · simp only [ne_eq, hk, not_false_eq_true, decide_true, List.filter_cons_of_pos, Memory.read_cons]
      rw [ih]

theorem Memory.read_insert (c : Host.Cell) (m : Memory) (h : ∀ d ∈ m, d.1 ≠ c.1) (b : Nat) :
    (Memory.insert c m).read b = if c.1 = b then c.2 else m.read b := by
  induction m with
  | nil => rfl
  | cons d rest ih =>
    obtain ⟨k, v⟩ := d
    have hk : k ≠ c.1 := h (k, v) (by simp)
    unfold Memory.insert
    split
    · exact Memory.read_cons ..
    · rw [Memory.read_cons, ih fun d hd => h d (by simp [hd]), Memory.read_cons]
      by_cases hb : k = b
      · simp [hb, show ¬ c.1 = b from fun e => hk (hb.trans e.symm)]
      · simp [hb]

theorem Memory.mem_erase {m : Memory} {a : Nat} {d : Host.Cell} (h : d ∈ m.erase a) : d ∈ m ∧ d.1 ≠ a := by
  simpa [Memory.erase] using h

/-- A read after a write: the byte written at its address, every other byte as before. -/
theorem Memory.read_write (m : Memory) (a : Nat) (v : Byte) (b : Nat) :
    (m.write a v).read b = if a = b then v else m.read b := by
  unfold Memory.write
  split
  · rename_i hv
    by_cases hb : a = b
    · subst hb; simp [Memory.read_erase_self, hv]
    · rw [Memory.read_erase_of_ne m (Ne.symm hb)]; simp [hb]
  · rw [Memory.read_insert _ _ fun d hd => (Memory.mem_erase hd).2]
    by_cases hb : a = b
    · simp [hb]
    · simp [hb, Memory.read_erase_of_ne m (Ne.symm hb)]

theorem Memory.read_write_self (m : Memory) (a : Nat) (v : Byte) : (m.write a v).read a = v := by
  simp [Memory.read_write]

theorem Memory.read_write_of_ne (m : Memory) {a b : Nat} (v : Byte) (h : b ≠ a) :
    (m.write a v).read b = m.read b := by
  simp [Memory.read_write, Ne.symm h]

/-! ## Reads after a run of bytes -/

/-- A byte outside the run written is as before. -/
theorem Memory.read_writeBytes_outside (bs : List Byte) (m : Memory) (a b : Nat)
    (h : b < a ∨ a + bs.length ≤ b) : (m.writeBytes a bs).read b = m.read b := by
  induction bs generalizing m a with
  | nil => rfl
  | cons v vs ih =>
    simp only [List.length_cons] at h
    rw [Memory.writeBytes, ih (m.write a v) (a + 1) (by omega), Memory.read_write_of_ne m v (by omega)]

/-- A byte inside the run written is the byte at its place in the run. -/
theorem Memory.read_writeBytes_inside (bs : List Byte) (m : Memory) (a i : Nat) (h : i < bs.length) :
    (m.writeBytes a bs).read (a + i) = bs[i] := by
  induction bs generalizing m a i with
  | nil => simp at h
  | cons v vs ih =>
    cases i with
    | zero =>
      rw [Memory.writeBytes, Memory.read_writeBytes_outside vs _ (a + 1) (a + 0) (by omega)]
      exact Memory.read_write_self m a v
    | succ i =>
      simp only [List.length_cons, Nat.add_lt_add_iff_right] at h
      rw [Memory.writeBytes, show a + (i + 1) = (a + 1) + i by omega, ih (m.write a v) (a + 1) i h,
        List.getElem_cons_succ]

theorem Memory.writeBytes_append (bs cs : List Byte) (m : Memory) (a : Nat) :
    m.writeBytes a (bs ++ cs) = (m.writeBytes a bs).writeBytes (a + bs.length) cs := by
  induction bs generalizing m a with
  | nil => rfl
  | cons v vs ih =>
    simp only [List.cons_append, Memory.writeBytes, List.length_cons, ih]
    congr 1
    omega

/-- Words that start away from a run written read as before. -/
theorem Memory.readWord_writeBytes_outside (bs : List Byte) (m : Memory) (a b : Nat)
    (h : b + 4 ≤ a ∨ a + bs.length ≤ b) : (m.writeBytes a bs).readWord b = m.readWord b := by
  unfold Memory.readWord
  repeat rw [Memory.read_writeBytes_outside _ _ _ _ (by omega)]

/-! ## The canonical form -/

theorem Memory.wf_nil : Memory.wf [] := by simp [Memory.wf]

theorem Memory.wf_erase {m : Memory} (h : m.wf) (a : Nat) : (m.erase a).wf :=
  ⟨h.1.filter _, fun c hc => h.2 c (Memory.mem_erase hc).1⟩

theorem Memory.mem_insert {c d : Host.Cell} {m : Memory} : d ∈ Memory.insert c m ↔ d = c ∨ d ∈ m := by
  induction m with
  | nil => simp [Memory.insert]
  | cons e rest ih =>
    unfold Memory.insert
    split
    · simp
    · simp only [List.mem_cons, ih]
      tauto

theorem Memory.wf_insert {m : Memory} (h : m.wf) {c : Host.Cell} (hc : c.2 ≠ Config.unwrittenByte)
    (hne : ∀ d ∈ m, d.1 ≠ c.1) : (Memory.insert c m).wf := by
  refine ⟨?_, fun d hd => ?_⟩
  · obtain ⟨hs, -⟩ := h
    induction m with
    | nil => simp [Memory.insert]
    | cons e rest ih =>
      have hr := List.pairwise_cons.1 hs
      unfold Memory.insert
      split
      · rename_i hlt
        refine List.pairwise_cons.2 ⟨fun d hd => ?_, hs⟩
        rcases List.mem_cons.1 hd with rfl | hd
        · exact hlt
        · exact lt_trans hlt (hr.1 d hd)
      · rename_i hlt
        refine List.pairwise_cons.2 ⟨fun d hd => ?_, ih (fun d hd => hne d (by simp [hd])) hr.2⟩
        rcases Memory.mem_insert.1 hd with rfl | hd
        · have := hne e (by simp)
          omega
        · exact hr.1 d hd
  · rcases Memory.mem_insert.1 hd with rfl | hd
    · exact hc
    · exact h.2 d hd

/-- A write keeps the canonical form. -/
theorem Memory.wf_write {m : Memory} (h : m.wf) (a : Nat) (v : Byte) : (m.write a v).wf := by
  unfold Memory.write
  split
  · exact Memory.wf_erase h a
  · rename_i hv
    exact Memory.wf_insert (Memory.wf_erase h a) hv fun d hd => (Memory.mem_erase hd).2

/-- A run of writes keeps the canonical form. -/
theorem Memory.wf_writeBytes (bs : List Byte) {m : Memory} (h : m.wf) (a : Nat) : (m.writeBytes a bs).wf := by
  induction bs generalizing m a with
  | nil => exact h
  | cons v vs ih => exact ih (Memory.wf_write h a v) (a + 1)

/-- The memory of a power-on reset is canonical. -/
theorem Memory.wf_ofCells (size : Nat) (cells : List Host.Cell) : (Memory.ofCells size cells).wf := by
  induction cells with
  | nil => exact Memory.wf_nil
  | cons c rest ih =>
    obtain ⟨a, v⟩ := c
    unfold Memory.ofCells
    split
    · exact Memory.wf_write ih a v
    · exact ih

/-- The memory of `State.reset` is canonical. -/
theorem Memory.wf_reset : State.reset.buf.wf := Memory.wf_nil

/-! ## The addresses listed -/

theorem Memory.mem_write {m : Memory} {a : Nat} {v : Byte} {d : Host.Cell} (h : d ∈ m.write a v) :
    d.1 = a ∨ d ∈ m := by
  unfold Memory.write at h
  split at h
  · exact .inr (Memory.mem_erase h).1
  · rcases Memory.mem_insert.1 h with rfl | h
    · exact .inl rfl
    · exact .inr (Memory.mem_erase h).1

/-- A run of writes lists only addresses listed before and addresses of the run. -/
theorem Memory.mem_writeBytes {bs : List Byte} {m : Memory} {a : Nat} {d : Host.Cell}
    (h : d ∈ m.writeBytes a bs) : (a ≤ d.1 ∧ d.1 < a + bs.length) ∨ d ∈ m := by
  induction bs generalizing m a with
  | nil => exact .inr h
  | cons v vs ih =>
    rcases ih h with h | h
    · simp only [List.length_cons]; omega
    · rcases Memory.mem_write h with h | h
      · simp only [List.length_cons]; omega
      · exact .inr h

theorem Memory.mem_ofCells {size : Nat} {cells : List Host.Cell} {d : Host.Cell}
    (h : d ∈ Memory.ofCells size cells) : d.1 < size := by
  induction cells with
  | nil => simp [Memory.ofCells] at h
  | cons c rest ih =>
    obtain ⟨a, v⟩ := c
    unfold Memory.ofCells at h
    split at h
    · rcases Memory.mem_write h with h | h
      · omega
      · exact ih h
    · exact ih h

end Sys2Proof.Machine
end

