-- ==== Sys2Proof/Laws/State.lean ====
section
/-! SUPPORT. The small lemmas of the state updates: one per field per update, true by `rfl`, so that no later
proof unfolds a record update. -/

namespace Sys2Proof.Machine

/-! ### advance -/

@[simp] theorem advance_memSize (s : State) : (advance s).memSize = s.memSize := rfl

@[simp] theorem advance_host (s : State) : (advance s).host = s.host := rfl

@[simp] theorem advance_buf (s : State) : (advance s).buf = s.buf := rfl

@[simp] theorem advance_ie (s : State) : (advance s).ie = s.ie := rfl

@[simp] theorem advance_busy (s : State) : (advance s).busy = s.busy := rfl

@[simp] theorem advance_done (s : State) : (advance s).done = s.done := rfl

@[simp] theorem advance_error (s : State) : (advance s).error = s.error := rfl

@[simp] theorem advance_errCode (s : State) : (advance s).errCode = s.errCode := rfl

@[simp] theorem advance_cmdPtr (s : State) : (advance s).cmdPtr = s.cmdPtr + 16#32 := rfl

@[simp] theorem advance_outPtr (s : State) : (advance s).outPtr = s.outPtr := rfl

@[simp] theorem advance_colPtr (s : State) : (advance s).colPtr = s.colPtr := rfl

@[simp] theorem advance_maxLimit (s : State) : (advance s).maxLimit = s.maxLimit := rfl

@[simp] theorem advance_unlimited (s : State) : (advance s).unlimited = s.unlimited := rfl

@[simp] theorem advance_fixBase (s : State) : (advance s).fixBase = s.fixBase := rfl

@[simp] theorem advance_fixCount (s : State) : (advance s).fixCount = s.fixCount := rfl

@[simp] theorem advance_errA (s : State) : (advance s).errA = s.errA := rfl

@[simp] theorem advance_errB (s : State) : (advance s).errB = s.errB := rfl

@[simp] theorem advance_warnCount (s : State) : (advance s).warnCount = s.warnCount := rfl

@[simp] theorem advance_warnRgba (s : State) : (advance s).warnRgba = s.warnRgba := rfl

@[simp] theorem advance_lutValid (s : State) : (advance s).lutValid = s.lutValid := rfl

@[simp] theorem advance_lutN (s : State) : (advance s).lutN = s.lutN := rfl

@[simp] theorem advance_lut (s : State) : (advance s).lut = s.lut := rfl

@[simp] theorem advance_result (s : State) : (advance s).result = s.result := rfl

/-! ### abort -/

@[simp] theorem abort_memSize (e : Err) (s : State) : (abort e s).memSize = s.memSize := rfl

@[simp] theorem abort_host (e : Err) (s : State) : (abort e s).host = s.host := rfl

@[simp] theorem abort_buf (e : Err) (s : State) : (abort e s).buf = s.buf := rfl

@[simp] theorem abort_ie (e : Err) (s : State) : (abort e s).ie = s.ie := rfl

@[simp] theorem abort_busy (e : Err) (s : State) : (abort e s).busy = false := rfl

@[simp] theorem abort_done (e : Err) (s : State) : (abort e s).done = s.done := rfl

@[simp] theorem abort_error (e : Err) (s : State) : (abort e s).error = true := rfl

@[simp] theorem abort_errCode (e : Err) (s : State) : (abort e s).errCode = e.code := rfl

@[simp] theorem abort_cmdPtr (e : Err) (s : State) : (abort e s).cmdPtr = s.cmdPtr := rfl

@[simp] theorem abort_outPtr (e : Err) (s : State) : (abort e s).outPtr = s.outPtr := rfl

@[simp] theorem abort_colPtr (e : Err) (s : State) : (abort e s).colPtr = s.colPtr := rfl

@[simp] theorem abort_maxLimit (e : Err) (s : State) : (abort e s).maxLimit = s.maxLimit := rfl

@[simp] theorem abort_unlimited (e : Err) (s : State) : (abort e s).unlimited = s.unlimited := rfl

@[simp] theorem abort_fixBase (e : Err) (s : State) : (abort e s).fixBase = s.fixBase := rfl

@[simp] theorem abort_fixCount (e : Err) (s : State) : (abort e s).fixCount = s.fixCount := rfl

@[simp] theorem abort_errA (e : Err) (s : State) : (abort e s).errA = e.a := rfl

@[simp] theorem abort_errB (e : Err) (s : State) : (abort e s).errB = e.b := rfl

@[simp] theorem abort_warnCount (e : Err) (s : State) : (abort e s).warnCount = s.warnCount := rfl

@[simp] theorem abort_warnRgba (e : Err) (s : State) : (abort e s).warnRgba = s.warnRgba := rfl

@[simp] theorem abort_lutValid (e : Err) (s : State) : (abort e s).lutValid = s.lutValid := rfl

@[simp] theorem abort_lutN (e : Err) (s : State) : (abort e s).lutN = s.lutN := rfl

@[simp] theorem abort_lut (e : Err) (s : State) : (abort e s).lut = s.lut := rfl

@[simp] theorem abort_result (e : Err) (s : State) : (abort e s).result = s.result := rfl

/-! ### start -/

@[simp] theorem start_memSize (s : State) : (start s).memSize = s.memSize := rfl

@[simp] theorem start_host (s : State) : (start s).host = s.host := rfl

@[simp] theorem start_buf (s : State) : (start s).buf = s.buf := rfl

@[simp] theorem start_ie (s : State) : (start s).ie = s.ie := rfl

@[simp] theorem start_busy (s : State) : (start s).busy = true := rfl

@[simp] theorem start_done (s : State) : (start s).done = false := rfl

@[simp] theorem start_error (s : State) : (start s).error = false := rfl

@[simp] theorem start_errCode (s : State) : (start s).errCode = .none := rfl

@[simp] theorem start_cmdPtr (s : State) : (start s).cmdPtr = s.cmdPtr := rfl

@[simp] theorem start_outPtr (s : State) : (start s).outPtr = s.outPtr := rfl

@[simp] theorem start_colPtr (s : State) : (start s).colPtr = s.colPtr := rfl

@[simp] theorem start_maxLimit (s : State) : (start s).maxLimit = s.maxLimit := rfl

@[simp] theorem start_unlimited (s : State) : (start s).unlimited = s.unlimited := rfl

@[simp] theorem start_fixBase (s : State) : (start s).fixBase = s.fixBase := rfl

@[simp] theorem start_fixCount (s : State) : (start s).fixCount = s.fixCount := rfl

@[simp] theorem start_errA (s : State) : (start s).errA = 0#32 := rfl

@[simp] theorem start_errB (s : State) : (start s).errB = 0#32 := rfl

@[simp] theorem start_warnCount (s : State) : (start s).warnCount = s.warnCount := rfl

@[simp] theorem start_warnRgba (s : State) : (start s).warnRgba = s.warnRgba := rfl

@[simp] theorem start_lutValid (s : State) : (start s).lutValid = s.lutValid := rfl

@[simp] theorem start_lutN (s : State) : (start s).lutN = s.lutN := rfl

@[simp] theorem start_lut (s : State) : (start s).lut = s.lut := rfl

@[simp] theorem start_result (s : State) : (start s).result = s.result := rfl

/-! ### finishStream -/

@[simp] theorem finishStream_memSize (s : State) : (finishStream s).memSize = s.memSize := rfl

@[simp] theorem finishStream_host (s : State) : (finishStream s).host = s.host := rfl

@[simp] theorem finishStream_buf (s : State) : (finishStream s).buf = s.buf := rfl

@[simp] theorem finishStream_ie (s : State) : (finishStream s).ie = s.ie := rfl

@[simp] theorem finishStream_busy (s : State) : (finishStream s).busy = false := rfl

@[simp] theorem finishStream_done (s : State) : (finishStream s).done = true := rfl

@[simp] theorem finishStream_error (s : State) : (finishStream s).error = s.error := rfl

@[simp] theorem finishStream_errCode (s : State) : (finishStream s).errCode = s.errCode := rfl

@[simp] theorem finishStream_cmdPtr (s : State) : (finishStream s).cmdPtr = s.cmdPtr := rfl

@[simp] theorem finishStream_outPtr (s : State) : (finishStream s).outPtr = s.outPtr := rfl

@[simp] theorem finishStream_colPtr (s : State) : (finishStream s).colPtr = s.colPtr := rfl

@[simp] theorem finishStream_maxLimit (s : State) : (finishStream s).maxLimit = s.maxLimit := rfl

@[simp] theorem finishStream_unlimited (s : State) : (finishStream s).unlimited = s.unlimited := rfl

@[simp] theorem finishStream_fixBase (s : State) : (finishStream s).fixBase = s.fixBase := rfl

@[simp] theorem finishStream_fixCount (s : State) : (finishStream s).fixCount = s.fixCount := rfl

@[simp] theorem finishStream_errA (s : State) : (finishStream s).errA = s.errA := rfl

@[simp] theorem finishStream_errB (s : State) : (finishStream s).errB = s.errB := rfl

@[simp] theorem finishStream_warnCount (s : State) : (finishStream s).warnCount = s.warnCount := rfl

@[simp] theorem finishStream_warnRgba (s : State) : (finishStream s).warnRgba = s.warnRgba := rfl

@[simp] theorem finishStream_lutValid (s : State) : (finishStream s).lutValid = s.lutValid := rfl

@[simp] theorem finishStream_lutN (s : State) : (finishStream s).lutN = s.lutN := rfl

@[simp] theorem finishStream_lut (s : State) : (finishStream s).lut = s.lut := rfl

@[simp] theorem finishStream_result (s : State) : (finishStream s).result = s.result := rfl

/-! ### setPointers -/

@[simp] theorem setPointers_memSize (out col : Word) (s : State) : (setPointers out col s).memSize = s.memSize := rfl

@[simp] theorem setPointers_host (out col : Word) (s : State) : (setPointers out col s).host = s.host := rfl

@[simp] theorem setPointers_buf (out col : Word) (s : State) : (setPointers out col s).buf = s.buf := rfl

@[simp] theorem setPointers_ie (out col : Word) (s : State) : (setPointers out col s).ie = s.ie := rfl

@[simp] theorem setPointers_busy (out col : Word) (s : State) : (setPointers out col s).busy = s.busy := rfl

@[simp] theorem setPointers_done (out col : Word) (s : State) : (setPointers out col s).done = s.done := rfl

@[simp] theorem setPointers_error (out col : Word) (s : State) : (setPointers out col s).error = s.error := rfl

@[simp] theorem setPointers_errCode (out col : Word) (s : State) : (setPointers out col s).errCode = s.errCode := rfl

@[simp] theorem setPointers_cmdPtr (out col : Word) (s : State) : (setPointers out col s).cmdPtr = s.cmdPtr := rfl

@[simp] theorem setPointers_outPtr (out col : Word) (s : State) : (setPointers out col s).outPtr = out := rfl

@[simp] theorem setPointers_colPtr (out col : Word) (s : State) : (setPointers out col s).colPtr = col := rfl

@[simp] theorem setPointers_maxLimit (out col : Word) (s : State) : (setPointers out col s).maxLimit = s.maxLimit := rfl

@[simp] theorem setPointers_unlimited (out col : Word) (s : State) : (setPointers out col s).unlimited = s.unlimited := rfl

@[simp] theorem setPointers_fixBase (out col : Word) (s : State) : (setPointers out col s).fixBase = s.fixBase := rfl

@[simp] theorem setPointers_fixCount (out col : Word) (s : State) : (setPointers out col s).fixCount = s.fixCount := rfl

@[simp] theorem setPointers_errA (out col : Word) (s : State) : (setPointers out col s).errA = s.errA := rfl

@[simp] theorem setPointers_errB (out col : Word) (s : State) : (setPointers out col s).errB = s.errB := rfl

@[simp] theorem setPointers_warnCount (out col : Word) (s : State) : (setPointers out col s).warnCount = s.warnCount := rfl

@[simp] theorem setPointers_warnRgba (out col : Word) (s : State) : (setPointers out col s).warnRgba = s.warnRgba := rfl

@[simp] theorem setPointers_lutValid (out col : Word) (s : State) : (setPointers out col s).lutValid = s.lutValid := rfl

@[simp] theorem setPointers_lutN (out col : Word) (s : State) : (setPointers out col s).lutN = s.lutN := rfl

@[simp] theorem setPointers_lut (out col : Word) (s : State) : (setPointers out col s).lut = s.lut := rfl

@[simp] theorem setPointers_result (out col : Word) (s : State) : (setPointers out col s).result = s.result := rfl

/-! ### setResult -/

@[simp] theorem setResult_memSize (v : Word) (s : State) : (setResult v s).memSize = s.memSize := rfl

@[simp] theorem setResult_host (v : Word) (s : State) : (setResult v s).host = s.host := rfl

@[simp] theorem setResult_buf (v : Word) (s : State) : (setResult v s).buf = s.buf := rfl

@[simp] theorem setResult_ie (v : Word) (s : State) : (setResult v s).ie = s.ie := rfl

@[simp] theorem setResult_busy (v : Word) (s : State) : (setResult v s).busy = s.busy := rfl

@[simp] theorem setResult_done (v : Word) (s : State) : (setResult v s).done = s.done := rfl

@[simp] theorem setResult_error (v : Word) (s : State) : (setResult v s).error = s.error := rfl

@[simp] theorem setResult_errCode (v : Word) (s : State) : (setResult v s).errCode = s.errCode := rfl

@[simp] theorem setResult_cmdPtr (v : Word) (s : State) : (setResult v s).cmdPtr = s.cmdPtr := rfl

@[simp] theorem setResult_outPtr (v : Word) (s : State) : (setResult v s).outPtr = s.outPtr := rfl

@[simp] theorem setResult_colPtr (v : Word) (s : State) : (setResult v s).colPtr = s.colPtr := rfl

@[simp] theorem setResult_maxLimit (v : Word) (s : State) : (setResult v s).maxLimit = s.maxLimit := rfl

@[simp] theorem setResult_unlimited (v : Word) (s : State) : (setResult v s).unlimited = s.unlimited := rfl

@[simp] theorem setResult_fixBase (v : Word) (s : State) : (setResult v s).fixBase = s.fixBase := rfl

@[simp] theorem setResult_fixCount (v : Word) (s : State) : (setResult v s).fixCount = s.fixCount := rfl

@[simp] theorem setResult_errA (v : Word) (s : State) : (setResult v s).errA = s.errA := rfl

@[simp] theorem setResult_errB (v : Word) (s : State) : (setResult v s).errB = s.errB := rfl

@[simp] theorem setResult_warnCount (v : Word) (s : State) : (setResult v s).warnCount = s.warnCount := rfl

@[simp] theorem setResult_warnRgba (v : Word) (s : State) : (setResult v s).warnRgba = s.warnRgba := rfl

@[simp] theorem setResult_lutValid (v : Word) (s : State) : (setResult v s).lutValid = s.lutValid := rfl

@[simp] theorem setResult_lutN (v : Word) (s : State) : (setResult v s).lutN = s.lutN := rfl

@[simp] theorem setResult_lut (v : Word) (s : State) : (setResult v s).lut = s.lut := rfl

@[simp] theorem setResult_result (v : Word) (s : State) : (setResult v s).result = v := rfl

/-! ### clearLut -/

@[simp] theorem clearLut_memSize (s : State) : (clearLut s).memSize = s.memSize := rfl

@[simp] theorem clearLut_host (s : State) : (clearLut s).host = s.host := rfl

@[simp] theorem clearLut_buf (s : State) : (clearLut s).buf = s.buf := rfl

@[simp] theorem clearLut_ie (s : State) : (clearLut s).ie = s.ie := rfl

@[simp] theorem clearLut_busy (s : State) : (clearLut s).busy = s.busy := rfl

@[simp] theorem clearLut_done (s : State) : (clearLut s).done = s.done := rfl

@[simp] theorem clearLut_error (s : State) : (clearLut s).error = s.error := rfl

@[simp] theorem clearLut_errCode (s : State) : (clearLut s).errCode = s.errCode := rfl

@[simp] theorem clearLut_cmdPtr (s : State) : (clearLut s).cmdPtr = s.cmdPtr := rfl

@[simp] theorem clearLut_outPtr (s : State) : (clearLut s).outPtr = s.outPtr := rfl

@[simp] theorem clearLut_colPtr (s : State) : (clearLut s).colPtr = s.colPtr := rfl

@[simp] theorem clearLut_maxLimit (s : State) : (clearLut s).maxLimit = s.maxLimit := rfl

@[simp] theorem clearLut_unlimited (s : State) : (clearLut s).unlimited = s.unlimited := rfl

@[simp] theorem clearLut_fixBase (s : State) : (clearLut s).fixBase = s.fixBase := rfl

@[simp] theorem clearLut_fixCount (s : State) : (clearLut s).fixCount = s.fixCount := rfl

@[simp] theorem clearLut_errA (s : State) : (clearLut s).errA = s.errA := rfl

@[simp] theorem clearLut_errB (s : State) : (clearLut s).errB = s.errB := rfl

@[simp] theorem clearLut_warnCount (s : State) : (clearLut s).warnCount = s.warnCount := rfl

@[simp] theorem clearLut_warnRgba (s : State) : (clearLut s).warnRgba = s.warnRgba := rfl

@[simp] theorem clearLut_lutValid (s : State) : (clearLut s).lutValid = false := rfl

@[simp] theorem clearLut_lutN (s : State) : (clearLut s).lutN = 0#8 := rfl

@[simp] theorem clearLut_lut (s : State) : (clearLut s).lut = Vector.replicate 255 0#24 := rfl

@[simp] theorem clearLut_result (s : State) : (clearLut s).result = s.result := rfl

/-! ### setLut -/

@[simp] theorem setLut_memSize (colors : List Rgb) (s : State) : (setLut colors s).memSize = s.memSize := rfl

@[simp] theorem setLut_host (colors : List Rgb) (s : State) : (setLut colors s).host = s.host := rfl

@[simp] theorem setLut_buf (colors : List Rgb) (s : State) : (setLut colors s).buf = s.buf := rfl

@[simp] theorem setLut_ie (colors : List Rgb) (s : State) : (setLut colors s).ie = s.ie := rfl

@[simp] theorem setLut_busy (colors : List Rgb) (s : State) : (setLut colors s).busy = s.busy := rfl

@[simp] theorem setLut_done (colors : List Rgb) (s : State) : (setLut colors s).done = s.done := rfl

@[simp] theorem setLut_error (colors : List Rgb) (s : State) : (setLut colors s).error = s.error := rfl

@[simp] theorem setLut_errCode (colors : List Rgb) (s : State) : (setLut colors s).errCode = s.errCode := rfl

@[simp] theorem setLut_cmdPtr (colors : List Rgb) (s : State) : (setLut colors s).cmdPtr = s.cmdPtr := rfl

@[simp] theorem setLut_outPtr (colors : List Rgb) (s : State) : (setLut colors s).outPtr = s.outPtr := rfl

@[simp] theorem setLut_colPtr (colors : List Rgb) (s : State) : (setLut colors s).colPtr = s.colPtr := rfl

@[simp] theorem setLut_maxLimit (colors : List Rgb) (s : State) : (setLut colors s).maxLimit = s.maxLimit := rfl

@[simp] theorem setLut_unlimited (colors : List Rgb) (s : State) : (setLut colors s).unlimited = s.unlimited := rfl

@[simp] theorem setLut_fixBase (colors : List Rgb) (s : State) : (setLut colors s).fixBase = s.fixBase := rfl

@[simp] theorem setLut_fixCount (colors : List Rgb) (s : State) : (setLut colors s).fixCount = s.fixCount := rfl

@[simp] theorem setLut_errA (colors : List Rgb) (s : State) : (setLut colors s).errA = s.errA := rfl

@[simp] theorem setLut_errB (colors : List Rgb) (s : State) : (setLut colors s).errB = s.errB := rfl

@[simp] theorem setLut_warnCount (colors : List Rgb) (s : State) : (setLut colors s).warnCount = s.warnCount := rfl

@[simp] theorem setLut_warnRgba (colors : List Rgb) (s : State) : (setLut colors s).warnRgba = s.warnRgba := rfl

@[simp] theorem setLut_lutValid (colors : List Rgb) (s : State) : (setLut colors s).lutValid = true := rfl

@[simp] theorem setLut_lutN (colors : List Rgb) (s : State) : (setLut colors s).lutN = BitVec.ofNat 8 colors.length := rfl

@[simp] theorem setLut_lut (colors : List Rgb) (s : State) :
    (setLut colors s).lut = Vector.ofFn fun k : Fin 255 => colors.getD k.val 0#24 := rfl

@[simp] theorem setLut_result (colors : List Rgb) (s : State) : (setLut colors s).result = s.result := rfl

/-! ### putOut -/

@[simp] theorem putOut_memSize (bytes : List Byte) (s : State) : (putOut bytes s).memSize = s.memSize := rfl

@[simp] theorem putOut_host (bytes : List Byte) (s : State) : (putOut bytes s).host = s.host := rfl

@[simp] theorem putOut_buf (bytes : List Byte) (s : State) : (putOut bytes s).buf = s.buf.writeBytes s.outPtr.toNat bytes := rfl

@[simp] theorem putOut_ie (bytes : List Byte) (s : State) : (putOut bytes s).ie = s.ie := rfl

@[simp] theorem putOut_busy (bytes : List Byte) (s : State) : (putOut bytes s).busy = s.busy := rfl

@[simp] theorem putOut_done (bytes : List Byte) (s : State) : (putOut bytes s).done = s.done := rfl

@[simp] theorem putOut_error (bytes : List Byte) (s : State) : (putOut bytes s).error = s.error := rfl

@[simp] theorem putOut_errCode (bytes : List Byte) (s : State) : (putOut bytes s).errCode = s.errCode := rfl

@[simp] theorem putOut_cmdPtr (bytes : List Byte) (s : State) : (putOut bytes s).cmdPtr = s.cmdPtr := rfl

@[simp] theorem putOut_outPtr (bytes : List Byte) (s : State) : (putOut bytes s).outPtr = s.outPtr + BitVec.ofNat 32 bytes.length := rfl

@[simp] theorem putOut_colPtr (bytes : List Byte) (s : State) : (putOut bytes s).colPtr = s.colPtr := rfl

@[simp] theorem putOut_maxLimit (bytes : List Byte) (s : State) : (putOut bytes s).maxLimit = s.maxLimit := rfl

@[simp] theorem putOut_unlimited (bytes : List Byte) (s : State) : (putOut bytes s).unlimited = s.unlimited := rfl

@[simp] theorem putOut_fixBase (bytes : List Byte) (s : State) : (putOut bytes s).fixBase = s.fixBase := rfl

@[simp] theorem putOut_fixCount (bytes : List Byte) (s : State) : (putOut bytes s).fixCount = s.fixCount := rfl

@[simp] theorem putOut_errA (bytes : List Byte) (s : State) : (putOut bytes s).errA = s.errA := rfl

@[simp] theorem putOut_errB (bytes : List Byte) (s : State) : (putOut bytes s).errB = s.errB := rfl

@[simp] theorem putOut_warnCount (bytes : List Byte) (s : State) : (putOut bytes s).warnCount = s.warnCount := rfl

@[simp] theorem putOut_warnRgba (bytes : List Byte) (s : State) : (putOut bytes s).warnRgba = s.warnRgba := rfl

@[simp] theorem putOut_lutValid (bytes : List Byte) (s : State) : (putOut bytes s).lutValid = s.lutValid := rfl

@[simp] theorem putOut_lutN (bytes : List Byte) (s : State) : (putOut bytes s).lutN = s.lutN := rfl

@[simp] theorem putOut_lut (bytes : List Byte) (s : State) : (putOut bytes s).lut = s.lut := rfl

@[simp] theorem putOut_result (bytes : List Byte) (s : State) : (putOut bytes s).result = s.result := rfl

/-! ### putCol -/

@[simp] theorem putCol_memSize (bytes : List Byte) (s : State) : (putCol bytes s).memSize = s.memSize := rfl

@[simp] theorem putCol_host (bytes : List Byte) (s : State) : (putCol bytes s).host = s.host := rfl

@[simp] theorem putCol_buf (bytes : List Byte) (s : State) : (putCol bytes s).buf = s.buf.writeBytes s.colPtr.toNat bytes := rfl

@[simp] theorem putCol_ie (bytes : List Byte) (s : State) : (putCol bytes s).ie = s.ie := rfl

@[simp] theorem putCol_busy (bytes : List Byte) (s : State) : (putCol bytes s).busy = s.busy := rfl

@[simp] theorem putCol_done (bytes : List Byte) (s : State) : (putCol bytes s).done = s.done := rfl

@[simp] theorem putCol_error (bytes : List Byte) (s : State) : (putCol bytes s).error = s.error := rfl

@[simp] theorem putCol_errCode (bytes : List Byte) (s : State) : (putCol bytes s).errCode = s.errCode := rfl

@[simp] theorem putCol_cmdPtr (bytes : List Byte) (s : State) : (putCol bytes s).cmdPtr = s.cmdPtr := rfl

@[simp] theorem putCol_outPtr (bytes : List Byte) (s : State) : (putCol bytes s).outPtr = s.outPtr := rfl

@[simp] theorem putCol_colPtr (bytes : List Byte) (s : State) : (putCol bytes s).colPtr = s.colPtr + BitVec.ofNat 32 bytes.length := rfl

@[simp] theorem putCol_maxLimit (bytes : List Byte) (s : State) : (putCol bytes s).maxLimit = s.maxLimit := rfl

@[simp] theorem putCol_unlimited (bytes : List Byte) (s : State) : (putCol bytes s).unlimited = s.unlimited := rfl

@[simp] theorem putCol_fixBase (bytes : List Byte) (s : State) : (putCol bytes s).fixBase = s.fixBase := rfl

@[simp] theorem putCol_fixCount (bytes : List Byte) (s : State) : (putCol bytes s).fixCount = s.fixCount := rfl

@[simp] theorem putCol_errA (bytes : List Byte) (s : State) : (putCol bytes s).errA = s.errA := rfl

@[simp] theorem putCol_errB (bytes : List Byte) (s : State) : (putCol bytes s).errB = s.errB := rfl

@[simp] theorem putCol_warnCount (bytes : List Byte) (s : State) : (putCol bytes s).warnCount = s.warnCount := rfl

@[simp] theorem putCol_warnRgba (bytes : List Byte) (s : State) : (putCol bytes s).warnRgba = s.warnRgba := rfl

@[simp] theorem putCol_lutValid (bytes : List Byte) (s : State) : (putCol bytes s).lutValid = s.lutValid := rfl

@[simp] theorem putCol_lutN (bytes : List Byte) (s : State) : (putCol bytes s).lutN = s.lutN := rfl

@[simp] theorem putCol_lut (bytes : List Byte) (s : State) : (putCol bytes s).lut = s.lut := rfl

@[simp] theorem putCol_result (bytes : List Byte) (s : State) : (putCol bytes s).result = s.result := rfl

/-! ### warn -/

@[simp] theorem warn_memSize (px : Word) (s : State) : (warn px s).memSize = s.memSize := rfl

@[simp] theorem warn_host (px : Word) (s : State) : (warn px s).host = s.host := rfl

@[simp] theorem warn_buf (px : Word) (s : State) : (warn px s).buf = s.buf := rfl

@[simp] theorem warn_ie (px : Word) (s : State) : (warn px s).ie = s.ie := rfl

@[simp] theorem warn_busy (px : Word) (s : State) : (warn px s).busy = s.busy := rfl

@[simp] theorem warn_done (px : Word) (s : State) : (warn px s).done = s.done := rfl

@[simp] theorem warn_error (px : Word) (s : State) : (warn px s).error = s.error := rfl

@[simp] theorem warn_errCode (px : Word) (s : State) : (warn px s).errCode = s.errCode := rfl

@[simp] theorem warn_cmdPtr (px : Word) (s : State) : (warn px s).cmdPtr = s.cmdPtr := rfl

@[simp] theorem warn_outPtr (px : Word) (s : State) : (warn px s).outPtr = s.outPtr := rfl

@[simp] theorem warn_colPtr (px : Word) (s : State) : (warn px s).colPtr = s.colPtr := rfl

@[simp] theorem warn_maxLimit (px : Word) (s : State) : (warn px s).maxLimit = s.maxLimit := rfl

@[simp] theorem warn_unlimited (px : Word) (s : State) : (warn px s).unlimited = s.unlimited := rfl

@[simp] theorem warn_fixBase (px : Word) (s : State) : (warn px s).fixBase = s.fixBase := rfl

@[simp] theorem warn_fixCount (px : Word) (s : State) : (warn px s).fixCount = s.fixCount := rfl

@[simp] theorem warn_errA (px : Word) (s : State) : (warn px s).errA = s.errA := rfl

@[simp] theorem warn_errB (px : Word) (s : State) : (warn px s).errB = s.errB := rfl

@[simp] theorem warn_warnCount (px : Word) (s : State) :
    (warn px s).warnCount = if s.warnCount.toNat < Config.wordMax then s.warnCount + 1#32 else s.warnCount := rfl

@[simp] theorem warn_warnRgba (px : Word) (s : State) :
    (warn px s).warnRgba = if s.warnCount = 0#32 then px else s.warnRgba := rfl

@[simp] theorem warn_lutValid (px : Word) (s : State) : (warn px s).lutValid = s.lutValid := rfl

@[simp] theorem warn_lutN (px : Word) (s : State) : (warn px s).lutN = s.lutN := rfl

@[simp] theorem warn_lut (px : Word) (s : State) : (warn px s).lut = s.lut := rfl

@[simp] theorem warn_result (px : Word) (s : State) : (warn px s).result = s.result := rfl

/-! ### clearWarnings -/

@[simp] theorem clearWarnings_memSize (s : State) : (clearWarnings s).memSize = s.memSize := rfl

@[simp] theorem clearWarnings_host (s : State) : (clearWarnings s).host = s.host := rfl

@[simp] theorem clearWarnings_buf (s : State) : (clearWarnings s).buf = s.buf := rfl

@[simp] theorem clearWarnings_ie (s : State) : (clearWarnings s).ie = s.ie := rfl

@[simp] theorem clearWarnings_busy (s : State) : (clearWarnings s).busy = s.busy := rfl

@[simp] theorem clearWarnings_done (s : State) : (clearWarnings s).done = s.done := rfl

@[simp] theorem clearWarnings_error (s : State) : (clearWarnings s).error = s.error := rfl

@[simp] theorem clearWarnings_errCode (s : State) : (clearWarnings s).errCode = s.errCode := rfl

@[simp] theorem clearWarnings_cmdPtr (s : State) : (clearWarnings s).cmdPtr = s.cmdPtr := rfl

@[simp] theorem clearWarnings_outPtr (s : State) : (clearWarnings s).outPtr = s.outPtr := rfl

@[simp] theorem clearWarnings_colPtr (s : State) : (clearWarnings s).colPtr = s.colPtr := rfl

@[simp] theorem clearWarnings_maxLimit (s : State) : (clearWarnings s).maxLimit = s.maxLimit := rfl

@[simp] theorem clearWarnings_unlimited (s : State) : (clearWarnings s).unlimited = s.unlimited := rfl

@[simp] theorem clearWarnings_fixBase (s : State) : (clearWarnings s).fixBase = s.fixBase := rfl

@[simp] theorem clearWarnings_fixCount (s : State) : (clearWarnings s).fixCount = s.fixCount := rfl

@[simp] theorem clearWarnings_errA (s : State) : (clearWarnings s).errA = s.errA := rfl

@[simp] theorem clearWarnings_errB (s : State) : (clearWarnings s).errB = s.errB := rfl

@[simp] theorem clearWarnings_warnCount (s : State) : (clearWarnings s).warnCount = 0#32 := rfl

@[simp] theorem clearWarnings_warnRgba (s : State) : (clearWarnings s).warnRgba = 0#32 := rfl

@[simp] theorem clearWarnings_lutValid (s : State) : (clearWarnings s).lutValid = s.lutValid := rfl

@[simp] theorem clearWarnings_lutN (s : State) : (clearWarnings s).lutN = s.lutN := rfl

@[simp] theorem clearWarnings_lut (s : State) : (clearWarnings s).lut = s.lut := rfl

@[simp] theorem clearWarnings_result (s : State) : (clearWarnings s).result = s.result := rfl

/-! ### softReset -/

@[simp] theorem softReset_memSize (s : State) : (softReset s).memSize = s.memSize := rfl

@[simp] theorem softReset_host (s : State) : (softReset s).host = s.host := rfl

@[simp] theorem softReset_buf (s : State) : (softReset s).buf = s.buf := rfl

@[simp] theorem softReset_ie (s : State) : (softReset s).ie = State.reset.ie := rfl

@[simp] theorem softReset_busy (s : State) : (softReset s).busy = State.reset.busy := rfl

@[simp] theorem softReset_done (s : State) : (softReset s).done = State.reset.done := rfl

@[simp] theorem softReset_error (s : State) : (softReset s).error = State.reset.error := rfl

@[simp] theorem softReset_errCode (s : State) : (softReset s).errCode = State.reset.errCode := rfl

@[simp] theorem softReset_cmdPtr (s : State) : (softReset s).cmdPtr = State.reset.cmdPtr := rfl

@[simp] theorem softReset_outPtr (s : State) : (softReset s).outPtr = State.reset.outPtr := rfl

@[simp] theorem softReset_colPtr (s : State) : (softReset s).colPtr = State.reset.colPtr := rfl

@[simp] theorem softReset_maxLimit (s : State) : (softReset s).maxLimit = State.reset.maxLimit := rfl

@[simp] theorem softReset_unlimited (s : State) : (softReset s).unlimited = State.reset.unlimited := rfl

@[simp] theorem softReset_fixBase (s : State) : (softReset s).fixBase = State.reset.fixBase := rfl

@[simp] theorem softReset_fixCount (s : State) : (softReset s).fixCount = State.reset.fixCount := rfl

@[simp] theorem softReset_errA (s : State) : (softReset s).errA = State.reset.errA := rfl

@[simp] theorem softReset_errB (s : State) : (softReset s).errB = State.reset.errB := rfl

@[simp] theorem softReset_warnCount (s : State) : (softReset s).warnCount = State.reset.warnCount := rfl

@[simp] theorem softReset_warnRgba (s : State) : (softReset s).warnRgba = State.reset.warnRgba := rfl

@[simp] theorem softReset_lutValid (s : State) : (softReset s).lutValid = State.reset.lutValid := rfl

@[simp] theorem softReset_lutN (s : State) : (softReset s).lutN = State.reset.lutN := rfl

@[simp] theorem softReset_lut (s : State) : (softReset s).lut = State.reset.lut := rfl

@[simp] theorem softReset_result (s : State) : (softReset s).result = State.reset.result := rfl

/-! ### warnAll: the warnings are the only fields it writes -/

@[simp] theorem warnAll_nil (s : State) : warnAll [] s = s := rfl

@[simp] theorem warnAll_cons (px : Word) (rest : List Word) (s : State) :
    warnAll (px :: rest) s = warnAll rest (warn px s) := rfl

@[simp] theorem warnAll_memSize (pxs : List Word) (s : State) : (warnAll pxs s).memSize = s.memSize := by
  induction pxs generalizing s with
  | nil => rfl
  | cons px rest ih => rw [warnAll_cons, ih, warn_memSize]

@[simp] theorem warnAll_host (pxs : List Word) (s : State) : (warnAll pxs s).host = s.host := by
  induction pxs generalizing s with
  | nil => rfl
  | cons px rest ih => rw [warnAll_cons, ih, warn_host]

@[simp] theorem warnAll_buf (pxs : List Word) (s : State) : (warnAll pxs s).buf = s.buf := by
  induction pxs generalizing s with
  | nil => rfl
  | cons px rest ih => rw [warnAll_cons, ih, warn_buf]

@[simp] theorem warnAll_ie (pxs : List Word) (s : State) : (warnAll pxs s).ie = s.ie := by
  induction pxs generalizing s with
  | nil => rfl
  | cons px rest ih => rw [warnAll_cons, ih, warn_ie]

@[simp] theorem warnAll_busy (pxs : List Word) (s : State) : (warnAll pxs s).busy = s.busy := by
  induction pxs generalizing s with
  | nil => rfl
  | cons px rest ih => rw [warnAll_cons, ih, warn_busy]

@[simp] theorem warnAll_done (pxs : List Word) (s : State) : (warnAll pxs s).done = s.done := by
  induction pxs generalizing s with
  | nil => rfl
  | cons px rest ih => rw [warnAll_cons, ih, warn_done]

@[simp] theorem warnAll_error (pxs : List Word) (s : State) : (warnAll pxs s).error = s.error := by
  induction pxs generalizing s with
  | nil => rfl
  | cons px rest ih => rw [warnAll_cons, ih, warn_error]

@[simp] theorem warnAll_errCode (pxs : List Word) (s : State) : (warnAll pxs s).errCode = s.errCode := by
  induction pxs generalizing s with
  | nil => rfl
  | cons px rest ih => rw [warnAll_cons, ih, warn_errCode]

@[simp] theorem warnAll_cmdPtr (pxs : List Word) (s : State) : (warnAll pxs s).cmdPtr = s.cmdPtr := by
  induction pxs generalizing s with
  | nil => rfl
  | cons px rest ih => rw [warnAll_cons, ih, warn_cmdPtr]

@[simp] theorem warnAll_outPtr (pxs : List Word) (s : State) : (warnAll pxs s).outPtr = s.outPtr := by
  induction pxs generalizing s with
  | nil => rfl
  | cons px rest ih => rw [warnAll_cons, ih, warn_outPtr]

@[simp] theorem warnAll_colPtr (pxs : List Word) (s : State) : (warnAll pxs s).colPtr = s.colPtr := by
  induction pxs generalizing s with
  | nil => rfl
  | cons px rest ih => rw [warnAll_cons, ih, warn_colPtr]

@[simp] theorem warnAll_maxLimit (pxs : List Word) (s : State) : (warnAll pxs s).maxLimit = s.maxLimit := by
  induction pxs generalizing s with
  | nil => rfl
  | cons px rest ih => rw [warnAll_cons, ih, warn_maxLimit]

@[simp] theorem warnAll_unlimited (pxs : List Word) (s : State) : (warnAll pxs s).unlimited = s.unlimited := by
  induction pxs generalizing s with
  | nil => rfl
  | cons px rest ih => rw [warnAll_cons, ih, warn_unlimited]

@[simp] theorem warnAll_fixBase (pxs : List Word) (s : State) : (warnAll pxs s).fixBase = s.fixBase := by
  induction pxs generalizing s with
  | nil => rfl
  | cons px rest ih => rw [warnAll_cons, ih, warn_fixBase]

@[simp] theorem warnAll_fixCount (pxs : List Word) (s : State) : (warnAll pxs s).fixCount = s.fixCount := by
  induction pxs generalizing s with
  | nil => rfl
  | cons px rest ih => rw [warnAll_cons, ih, warn_fixCount]

@[simp] theorem warnAll_errA (pxs : List Word) (s : State) : (warnAll pxs s).errA = s.errA := by
  induction pxs generalizing s with
  | nil => rfl
  | cons px rest ih => rw [warnAll_cons, ih, warn_errA]

@[simp] theorem warnAll_errB (pxs : List Word) (s : State) : (warnAll pxs s).errB = s.errB := by
  induction pxs generalizing s with
  | nil => rfl
  | cons px rest ih => rw [warnAll_cons, ih, warn_errB]

@[simp] theorem warnAll_lutValid (pxs : List Word) (s : State) : (warnAll pxs s).lutValid = s.lutValid := by
  induction pxs generalizing s with
  | nil => rfl
  | cons px rest ih => rw [warnAll_cons, ih, warn_lutValid]

@[simp] theorem warnAll_lutN (pxs : List Word) (s : State) : (warnAll pxs s).lutN = s.lutN := by
  induction pxs generalizing s with
  | nil => rfl
  | cons px rest ih => rw [warnAll_cons, ih, warn_lutN]

@[simp] theorem warnAll_lut (pxs : List Word) (s : State) : (warnAll pxs s).lut = s.lut := by
  induction pxs generalizing s with
  | nil => rfl
  | cons px rest ih => rw [warnAll_cons, ih, warn_lut]

@[simp] theorem warnAll_result (pxs : List Word) (s : State) : (warnAll pxs s).result = s.result := by
  induction pxs generalizing s with
  | nil => rfl
  | cons px rest ih => rw [warnAll_cons, ih, warn_result]

end Sys2Proof.Machine
end

