-- ==== Sys2Proof/Laws/Ops.lean ====
section
/-! SUPPORT. One lemma per shared operation that says once everything it can do: how a command ends, the
checks, and the body of each command. Later proofs cite these instead of unfolding. -/

namespace Sys2Proof.Machine

/-! ## Sequencing -/

theorem bind_eq_ok {α β : Type} {x : Except Err α} {f : α → Except Err β} {b : β} :
    (x >>= f) = .ok b ↔ ∃ a, x = .ok a ∧ f a = .ok b := by
  cases x <;> simp [bind, Except.bind]

theorem bind_eq_error {α β : Type} {x : Except Err α} {f : α → Except Err β} {e : Err} :
    (x >>= f) = .error e ↔ x = .error e ∨ ∃ a, x = .ok a ∧ f a = .error e := by
  cases x <;> simp [bind, Except.bind]

theorem pure_eq_ok {α : Type} {a b : α} : (pure a : Except Err α) = .ok b ↔ a = b := by
  simp [pure, Except.pure]

theorem pure_ne_error {α : Type} {a : α} {e : Err} : (pure a : Except Err α) ≠ .error e := by
  simp [pure, Except.pure]

/-! ## How a command ends -/

@[simp] theorem complete_ok (s t : State) : complete s (.ok t) = .next (advance t) := rfl

@[simp] theorem complete_error (s : State) (e : Err) : complete s (.error e) = .next (abort e s) := rfl

/-- A command completes or aborts; it never stops the machine. -/
theorem complete_cases (s : State) (r : Except Err State) :
    (∃ u, r = .ok u ∧ complete s r = .next (advance u)) ∨
      ∃ e, r = .error e ∧ complete s r = .next (abort e s) := by
  cases r with
  | ok u => exact .inl ⟨u, rfl, rfl⟩
  | error e => exact .inr ⟨e, rfl, rfl⟩

/-- If a command answers `t`, its body completed in the state `t` advances from, or it raised and `t` is the
abort of the state before. -/
theorem complete_next {s t : State} {r : Except Err State} (h : complete s r = .next t) :
    (∃ u, r = .ok u ∧ t = advance u) ∨ ∃ e, r = .error e ∧ t = abort e s := by
  cases r with
  | ok u => exact .inl ⟨u, rfl, (Host.Outcome.next.inj h).symm⟩
  | error e => exact .inr ⟨e, rfl, (Host.Outcome.next.inj h).symm⟩

/-! ## Checks -/

theorem checkRange_eq_ok {s : State} {r : ByteRange} {u : Unit} : checkRange s r = .ok u ↔ inRange s r := by
  unfold checkRange
  split <;> simp_all

theorem checkRange_eq_error {s : State} {r : ByteRange} {e : Err} :
    checkRange s r = .error e ↔ ¬ inRange s r ∧ e = ⟨.bounds, r.base, clipWord r.len⟩ := by
  unfold checkRange
  split <;> simp_all [eq_comm]

theorem checkMapped_eq_ok {s : State} {u : Unit} : checkMapped s = .ok u ↔ s.lutValid = true := by
  unfold checkMapped
  split <;> simp_all

theorem checkMapped_eq_error {s : State} {e : Err} :
    checkMapped s = .error e ↔ s.lutValid = false ∧ e = ⟨.noMap, 0#32, 0#32⟩ := by
  unfold checkMapped
  cases s.lutValid
  · simpa using eq_comm
  · simp

theorem firstOverlap_eq_none {w : ByteRange} {rs : List ByteRange} :
    firstOverlap w rs = none ↔ ∀ r ∈ rs, ¬ overlaps w r := by
  simp [firstOverlap]

/-- The overlap check passes exactly when no write range meets a read range or the other write range. -/
theorem checkOverlap_eq_ok {out col : ByteRange} {reads : List ByteRange} {u : Unit} :
    checkOverlap out col reads = .ok u ↔
      (∀ r ∈ reads, ¬ overlaps out r) ∧ ¬ overlaps out col ∧ ∀ r ∈ reads, ¬ overlaps col r := by
  unfold checkOverlap
  split
  · rename_i r h
    refine iff_of_false (by simp) fun hc => ?_
    have : firstOverlap out (reads ++ [col]) = none :=
      firstOverlap_eq_none.2 fun r hr => by
        rcases List.mem_append.1 hr with hr | hr
        · exact hc.1 r hr
        · rw [List.mem_singleton.1 hr]; exact hc.2.1
    simp [this] at h
  · rename_i h
    have h1 := firstOverlap_eq_none.1 h
    split
    · rename_i r h2
      refine iff_of_false (by simp) fun hc => ?_
      simp [firstOverlap_eq_none.2 hc.2.2] at h2
    · rename_i h2
      exact iff_of_true rfl ⟨fun r hr => h1 r (by simp [hr]), h1 col (by simp), firstOverlap_eq_none.1 h2⟩

/-- The overlap check raises OVERLAP, naming a write range and the range it overlaps. -/
theorem checkOverlap_eq_error {out col : ByteRange} {reads : List ByteRange} {e : Err}
    (h : checkOverlap out col reads = .error e) :
    (∃ r, firstOverlap out (reads ++ [col]) = some r ∧ e = ⟨.overlap, out.base, r.base⟩) ∨
      firstOverlap out (reads ++ [col]) = none ∧
        ∃ r, firstOverlap col reads = some r ∧ e = ⟨.overlap, col.base, r.base⟩ := by
  unfold checkOverlap at h
  split at h
  · exact .inl ⟨_, by assumption, (Except.error.inj h).symm⟩
  · split at h
    · exact .inr ⟨by assumption, _, by assumption, (Except.error.inj h).symm⟩
    · cases h

theorem checkInside_eq_ok {L : TileLayout} {w h tx ty : Half} {u : Unit} :
    checkInside L w h tx ty = .ok u ↔
      (tx.toNat + 1) * tileEdge L ≤ w.toNat ∧ (ty.toNat + 1) * tileEdge L ≤ h.toNat := by
  unfold checkInside
  split <;> simp <;> omega

theorem checkInside_eq_error {L : TileLayout} {w h tx ty : Half} {e : Err}
    (he : checkInside L w h tx ty = .error e) : e = ⟨.range, ty ++ tx, h ++ w⟩ := by
  unfold checkInside at he
  split at he
  · exact (Except.error.inj he).symm
  · cases he

theorem checkDimensions_eq_ok {L : TileLayout} {w h : Half} {u : Unit} :
    checkDimensions L w h = .ok u ↔
      dimensionFails w.toNat (tileEdge L) = false ∧ dimensionFails h.toNat (tileEdge L) = false := by
  unfold checkDimensions
  cases dimensionFails w.toNat (tileEdge L) <;> cases dimensionFails h.toNat (tileEdge L) <;> simp

theorem checkDimensions_eq_error {L : TileLayout} {w h : Half} {e : Err}
    (he : checkDimensions L w h = .error e) : e.code = .dimension := by
  unfold checkDimensions at he
  simp only at he
  split at he
  · exact (Except.error.inj he) ▸ rfl
  · cases he

/-- The checks of TILE and FRAME on their ranges pass exactly when every range is in BUF and the write
ranges meet neither a read range nor each other. -/
theorem checkTileRanges_eq_ok {L : TileLayout} {fb : Word} {w h n : Nat} {s : State} {u : Unit} :
    checkTileRanges L fb w h n s = .ok u ↔
      inRange s (frameRange fb w h) ∧ inRange s (tileOutRange L n s) ∧ inRange s (tileColRange L n s) ∧
        (needsFixedTable L s = true → inRange s (fixRange s)) ∧
        (∀ r ∈ tileReads L fb w h s, ¬ overlaps (tileOutRange L n s) r) ∧
        ¬ overlaps (tileOutRange L n s) (tileColRange L n s) ∧
        ∀ r ∈ tileReads L fb w h s, ¬ overlaps (tileColRange L n s) r := by
  unfold checkTileRanges
  simp only [bind_eq_ok, checkRange_eq_ok, exists_const]
  cases hn : needsFixedTable L s
  · simp [checkOverlap_eq_ok]
  · simp only [if_true, bind_eq_ok, checkRange_eq_ok, checkOverlap_eq_ok, exists_and_left, exists_const,
      true_implies]

/-- Every error of those checks is BOUNDS or OVERLAP. -/
theorem checkTileRanges_eq_error {L : TileLayout} {fb : Word} {w h n : Nat} {s : State} {e : Err}
    (he : checkTileRanges L fb w h n s = .error e) : e.code = .bounds ∨ e.code = .overlap := by
  unfold checkTileRanges at he
  have hr : ∀ r, checkRange s r = .error e → e.code = .bounds := fun r h => by
    rw [(checkRange_eq_error.1 h).2]
  have ho : ∀ o c rs, checkOverlap o c rs = .error e → e.code = .overlap := fun o c rs h => by
    rcases checkOverlap_eq_error h with ⟨r, -, rfl⟩ | ⟨-, r, -, rfl⟩ <;> rfl
  rcases bind_eq_error.1 he with h | ⟨_, -, he⟩
  · exact .inl (hr _ h)
  rcases bind_eq_error.1 he with h | ⟨_, -, he⟩
  · exact .inl (hr _ h)
  rcases bind_eq_error.1 he with h | ⟨_, -, he⟩
  · exact .inl (hr _ h)
  split at he
  · rcases bind_eq_error.1 he with h | ⟨_, -, he⟩
    · exact .inl (hr _ h)
    · exact .inr (ho _ _ _ he)
  · exact .inr (ho _ _ _ (by simpa [bind, Except.bind, pure, Except.pure] using he))

/-! ## One tile -/

theorem checkSlots_eq_ok {L : TileLayout} {rows : List (List Byte)} {u : Unit} :
    checkSlots L rows = .ok u ↔
      (isMono L = false → ∀ row ∈ rows, ∀ slot ∈ row, slot.toNat < 2 ^ bitsPerPixel L) := by
  unfold checkSlots
  cases hm : isMono L
  · simp only [if_false, Bool.false_eq_true, true_implies]
    split
    · rename_i slot hs
      refine iff_of_false (by simp) fun hc => ?_
      have h1 := List.find?_some hs
      have h2 := List.mem_of_find?_eq_some hs
      obtain ⟨row, hr, hsl⟩ := List.mem_flatMap.1 h2
      have := hc row hr slot hsl
      simp at h1
      omega
    · rename_i hs
      refine iff_of_true rfl fun row hr slot hsl => ?_
      have := List.find?_eq_none.1 hs slot (List.mem_flatMap.2 ⟨row, hr, hsl⟩)
      simpa using this
  · simp

theorem checkSlots_eq_error {L : TileLayout} {rows : List (List Byte)} {e : Err}
    (he : checkSlots L rows = .error e) :
    ∃ slot : Byte, e = ⟨.range, slot.setWidth 32, BitVec.ofNat 32 (2 ^ bitsPerPixel L)⟩ := by
  unfold checkSlots at he
  split at he
  · cases he
  · split at he
    · exact ⟨_, (Except.error.inj he).symm⟩
    · cases he

theorem foreground_eq_error {s : State} {e : Err} (he : foreground s = .error e) :
    e.code = .notInPalette ∨ e.code = .range := by
  unfold foreground at he
  split at he
  · cases he
  · split at he
    · exact .inl ((Except.error.inj he) ▸ rfl)
    · split at he
      · exact .inr ((Except.error.inj he) ▸ rfl)
      · cases he

/-- What encoding one tile yields, when it does. -/
theorem encodeTile_eq_ok {L : TileLayout} {fb : Word} {w tx ty : Nat} {s : State} {e : Encoded} :
    encodeTile L fb w tx ty s = .ok e ↔
      checkSlots L (slotRows s (window s fb w (tileEdge L) tx ty)) = .ok () ∧
        ∃ fg, layoutForeground L s = .ok fg ∧
          e = ⟨patternBytes L (slotRows s (window s fb w (tileEdge L) tx ty)), colorBytes L fg,
            missesOf s (window s fb w (tileEdge L) tx ty)⟩ := by
  unfold encodeTile
  simp only [bind_eq_ok, pure_eq_ok]
  constructor
  · rintro ⟨_, h1, fg, h2, rfl⟩
    exact ⟨h1, fg, h2, rfl⟩
  · rintro ⟨h1, fg, h2, rfl⟩
    exact ⟨(), h1, fg, h2, rfl⟩

theorem encodeTile_eq_error {L : TileLayout} {fb : Word} {w tx ty : Nat} {s : State} {e : Err}
    (he : encodeTile L fb w tx ty s = .error e) : e.code = .range ∨ e.code = .notInPalette := by
  unfold encodeTile at he
  rcases bind_eq_error.1 he with h | ⟨_, -, he⟩
  · obtain ⟨slot, rfl⟩ := checkSlots_eq_error h
    exact .inl rfl
  rcases bind_eq_error.1 he with h | ⟨_, -, he⟩
  · unfold layoutForeground at h
    split at h
    · exact (foreground_eq_error h).symm
    · cases h
  · cases pure_ne_error he

theorem encodeTiles_eq_error {L : TileLayout} {fb : Word} {w : Nat} {s : State} {e : Err}
    {cs : List (Nat × Nat)} (he : encodeTiles L fb w s cs = .error e) :
    e.code = .range ∨ e.code = .notInPalette := by
  induction cs with
  | nil => cases he
  | cons c cs ih =>
    obtain ⟨tx, ty⟩ := c
    unfold encodeTiles at he
    rcases bind_eq_error.1 he with h | ⟨_, -, he⟩
    · exact encodeTile_eq_error h
    rcases bind_eq_error.1 he with h | ⟨_, -, he⟩
    · exact ih h
    · cases pure_ne_error he

/-! ## The state after the writes of TILE and FRAME -/

theorem emit_buf (e : Encoded) (s : State) :
    (emit e s).buf = (s.buf.writeBytes s.outPtr.toNat e.pat).writeBytes s.colPtr.toNat e.col := by
  simp [emit]

theorem emit_outPtr (e : Encoded) (s : State) : (emit e s).outPtr = s.outPtr + BitVec.ofNat 32 e.pat.length := by
  simp [emit]

theorem emit_colPtr (e : Encoded) (s : State) : (emit e s).colPtr = s.colPtr + BitVec.ofNat 32 e.col.length := by
  simp [emit]

/-! ## The bodies of the commands -/

theorem expandBody_eq_ok {b : Nat} {w : Word} {s t : State} :
    expandBody b w s = .ok t ↔ codeTooWide b w = false ∧ t = setResult (mapChannels (expandByte b) w) s := by
  unfold expandBody
  cases codeTooWide b w <;> simp [eq_comm]

theorem expandBody_eq_error {b : Nat} {w : Word} {s : State} {e : Err} :
    expandBody b w s = .error e ↔ codeTooWide b w = true ∧ e = ⟨.range, w, BitVec.ofNat 32 (2 ^ b)⟩ := by
  unfold expandBody
  cases codeTooWide b w <;> simp [eq_comm]

theorem fixBody_eq_ok {c : Word} {s t : State} :
    fixBody c s = .ok t ↔ inRange s (fixRange s) ∧ t = setResult (fixResult (fixLookup s (rgbOf c))) s := by
  unfold fixBody
  simp only [bind_eq_ok, checkRange_eq_ok, pure_eq_ok, exists_const]
  tauto

theorem fixBody_eq_error {c : Word} {s : State} {e : Err} :
    fixBody c s = .error e ↔
      ¬ inRange s (fixRange s) ∧ e = ⟨.bounds, s.fixBase, clipWord (4 * s.fixCount.toNat)⟩ := by
  unfold fixBody
  rw [bind_eq_error, checkRange_eq_error]
  constructor
  · rintro (h | ⟨_, -, h⟩)
    · exact h
    · cases pure_ne_error h
  · exact .inl

/-- The colours of a list, when no opaque colour repeats. -/
theorem collectColors_eq_error {m : Memory} {cl k i : Nat} {seen : List Rgb} {e : Err}
    (he : collectColors m cl k i seen = .error e) : e.code = .dupColor := by
  induction k generalizing i seen with
  | zero => cases he
  | succ k ih =>
    unfold collectColors at he
    simp only at he
    split at he
    · exact ih he
    · split at he
      · exact (Except.error.inj he) ▸ rfl
      · exact ih he

/-- The colours collected are distinct, if those seen before are. -/
theorem collectColors_nodup {m : Memory} {cl k i : Nat} {seen out : List Rgb}
    (h : collectColors m cl k i seen = .ok out) (hs : seen.Nodup) : out.Nodup := by
  induction k generalizing i seen with
  | zero => exact Except.ok.inj h ▸ hs
  | succ k ih =>
    unfold collectColors at h
    simp only at h
    split at h
    · exact ih h hs
    · split at h
      · cases h
      · rename_i hn
        exact ih h (List.nodup_append.2 ⟨hs, by simp, fun a ha b hb => by
          rw [List.mem_singleton.1 hb]; exact fun e => hn (e ▸ ha)⟩)

theorem buildBody_eq_ok {cl n : Word} {s t : State} :
    buildBody cl n s = .ok t ↔
      inRange s ⟨cl, 4 * n.toNat⟩ ∧
        ∃ colors, collectColors s.buf cl.toNat n.toNat 0 [] = .ok colors ∧ colors.length ≤ maxEff s ∧
          t = setLut colors s := by
  unfold buildBody
  simp only [bind_eq_ok, checkRange_eq_ok, exists_const]
  refine and_congr_right fun _ => exists_congr fun colors => and_congr_right fun _ => ?_
  split
  · refine iff_of_false ?_ fun h => ?_
    · simp [throw, throwThe, MonadExceptOf.throw, bind, Except.bind]
    · omega
  · simp only [pure, Except.pure, Except.ok.injEq]
    constructor
    · rintro rfl; exact ⟨by omega, rfl⟩
    · rintro ⟨-, rfl⟩; rfl

theorem buildBody_eq_error {cl n : Word} {s : State} {e : Err} (he : buildBody cl n s = .error e) :
    e.code = .bounds ∨ e.code = .dupColor ∨ e.code = .colorLimit := by
  unfold buildBody at he
  rcases bind_eq_error.1 he with h | ⟨_, -, he⟩
  · exact .inl ((checkRange_eq_error.1 h).2 ▸ rfl)
  rcases bind_eq_error.1 he with h | ⟨colors, -, he⟩
  · exact .inr (.inl (collectColors_eq_error h))
  split at he
  · simp only [throw, throwThe, MonadExceptOf.throw, bind, Except.bind, Except.error.injEq] at he
    exact .inr (.inr (he ▸ rfl))
  · cases he

theorem lookBody_eq_ok {px : Word} {s t : State} :
    lookBody px s = .ok t ↔
      s.lutValid = true ∧
        t = setResult ((resolve s px).1.setWidth 32) (if (resolve s px).2 then warn px s else s) := by
  unfold lookBody
  simp only [bind_eq_ok, checkMapped_eq_ok, pure_eq_ok, exists_const]
  tauto

theorem lookBody_eq_error {px : Word} {s : State} {e : Err} :
    lookBody px s = .error e ↔ s.lutValid = false ∧ e = ⟨.noMap, 0#32, 0#32⟩ := by
  unfold lookBody
  rw [bind_eq_error, checkMapped_eq_error]
  constructor
  · rintro (h | ⟨_, -, h⟩)
    · exact h
    · cases pure_ne_error h
  · exact .inl

/-- What TILE does when it completes. -/
theorem tileBody_eq_ok {L : TileLayout} {fb : Word} {w h tx ty : Half} {s t : State} :
    tileBody L fb w h tx ty s = .ok t ↔
      checkInside L w h tx ty = .ok () ∧ s.lutValid = true ∧
        checkTileRanges L fb w.toNat h.toNat 1 s = .ok () ∧
        ∃ e, encodeTile L fb w.toNat tx.toNat ty.toNat s = .ok e ∧ t = emit e s := by
  unfold tileBody
  simp only [bind_eq_ok, checkMapped_eq_ok, pure_eq_ok, exists_const]
  constructor
  · rintro ⟨_, h1, h2, _, h3, e, h4, rfl⟩
    exact ⟨h1, h2, h3, e, h4, rfl⟩
  · rintro ⟨h1, h2, h3, e, h4, rfl⟩
    exact ⟨(), h1, h2, (), h3, e, h4, rfl⟩

theorem tileBody_eq_error {L : TileLayout} {fb : Word} {w h tx ty : Half} {s : State} {e : Err}
    (he : tileBody L fb w h tx ty s = .error e) : e.code ≠ .none := by
  unfold tileBody at he
  rcases bind_eq_error.1 he with h | ⟨_, -, he⟩
  · rw [checkInside_eq_error h]; simp
  rcases bind_eq_error.1 he with h | ⟨_, -, he⟩
  · rw [(checkMapped_eq_error.1 h).2]; simp
  rcases bind_eq_error.1 he with h | ⟨_, -, he⟩
  · rcases checkTileRanges_eq_error h with h | h <;> rw [h] <;> simp
  rcases bind_eq_error.1 he with h | ⟨_, -, he⟩
  · rcases encodeTile_eq_error h with h | h <;> rw [h] <;> simp
  · cases pure_ne_error he

/-- What FRAME does when it completes. -/
theorem frameBody_eq_ok {L : TileLayout} {fb : Word} {w h : Half} {s t : State} :
    frameBody L fb w h s = .ok t ↔
      checkDimensions L w h = .ok () ∧ s.lutValid = true ∧
        checkTileRanges L fb w.toNat h.toNat (tilesAlong L w * tilesAlong L h) s = .ok () ∧
        ∃ e, encodeTiles L fb w.toNat s (tileCoords (tilesAlong L w) (tilesAlong L h)) = .ok e ∧
          t = emit e s := by
  unfold frameBody
  simp only [bind_eq_ok, checkMapped_eq_ok, pure_eq_ok, exists_const]
  constructor
  · rintro ⟨_, h1, h2, _, h3, e, h4, rfl⟩
    exact ⟨h1, h2, h3, e, h4, rfl⟩
  · rintro ⟨h1, h2, h3, e, h4, rfl⟩
    exact ⟨(), h1, h2, (), h3, e, h4, rfl⟩

theorem frameBody_eq_error {L : TileLayout} {fb : Word} {w h : Half} {s : State} {e : Err}
    (he : frameBody L fb w h s = .error e) : e.code ≠ .none := by
  unfold frameBody at he
  rcases bind_eq_error.1 he with h | ⟨_, -, he⟩
  · rw [checkDimensions_eq_error h]; simp
  rcases bind_eq_error.1 he with h | ⟨_, -, he⟩
  · rw [(checkMapped_eq_error.1 h).2]; simp
  rcases bind_eq_error.1 he with h | ⟨_, -, he⟩
  · rcases checkTileRanges_eq_error h with h | h <;> rw [h] <;> simp
  rcases bind_eq_error.1 he with h | ⟨_, -, he⟩
  · rcases encodeTiles_eq_error h with h | h <;> rw [h] <;> simp
  · cases pure_ne_error he

theorem serializeSlots_eq_error {f : PalFormat} {s : State} {slot : Nat} {xs : List Rgb} {e : Err}
    (he : serializeSlots f s slot xs = .error e) : e.code = .notInPalette := by
  induction xs generalizing slot with
  | nil => cases he
  | cons x xs ih =>
    unfold serializeSlots at he
    rcases bind_eq_error.1 he with h | ⟨_, -, he⟩
    · unfold slotBytes at h
      cases f <;> simp only [reduceCtorEq] at h
      unfold fixedSlotBytes at h
      split at h
      · cases h
      · exact (Except.error.inj h) ▸ rfl
    rcases bind_eq_error.1 he with h | ⟨_, -, he⟩
    · exact ih h
    · cases pure_ne_error he

theorem checkPalTable_eq_ok {f : PalFormat} {n : SlotCount} {s : State} {u : Unit} :
    checkPalTable f n s = .ok u ↔
      (f = .fixed → inRange s (fixRange s) ∧ ¬ overlaps (palRange f n s) (fixRange s)) := by
  unfold checkPalTable
  split
  · rename_i h
    simp only [bind_eq_ok, checkRange_eq_ok, exists_const, checkOverlap_eq_ok, List.mem_singleton,
      forall_eq, h, true_implies]
    have h1 : ∀ p q : ByteRange, q.len = 0 → ¬ overlaps p q := fun p q hq h => by
      have := h.2.1; omega
    have h2 : ∀ p q : ByteRange, p.len = 0 → ¬ overlaps p q := fun p q hp h => by
      have := h.1; omega
    exact and_congr_right fun _ => ⟨fun h => h.1, fun h => ⟨h, h1 _ _ rfl, h2 _ _ rfl⟩⟩
  · rename_i h
    simp [h]

theorem checkPalTable_eq_error {f : PalFormat} {n : SlotCount} {s : State} {e : Err}
    (he : checkPalTable f n s = .error e) : e.code = .bounds ∨ e.code = .overlap := by
  unfold checkPalTable at he
  split at he
  · rcases bind_eq_error.1 he with h | ⟨_, -, he⟩
    · exact .inl ((checkRange_eq_error.1 h).2 ▸ rfl)
    · rcases checkOverlap_eq_error he with ⟨r, -, rfl⟩ | ⟨-, r, -, rfl⟩ <;> exact .inr rfl
  · cases he

/-- What PAL does when it completes. -/
theorem palBody_eq_ok {f : PalFormat} {n : SlotCount} {s t : State} :
    palBody f n s = .ok t ↔
      s.lutValid = true ∧ s.lutN.toNat + 1 ≤ slotCount n ∧ inRange s (palRange f n s) ∧
        checkPalTable f n s = .ok () ∧
        ∃ used, serializeSlots f s 1 (lutColors s) = .ok used ∧ t = putOut (paletteBuffer f n s used) s := by
  unfold palBody
  simp only [bind_eq_ok, checkMapped_eq_ok, exists_const]
  refine and_congr_right fun _ => ?_
  split
  · refine iff_of_false ?_ fun h => ?_
    · simp [throw, throwThe, MonadExceptOf.throw, bind, Except.bind]
    · omega
  · rename_i hn
    simp only [bind_eq_ok, checkRange_eq_ok, pure_eq_ok, exists_const]
    constructor
    · rintro ⟨h1, _, h2, used, h3, rfl⟩
      exact ⟨by omega, h1, h2, used, h3, rfl⟩
    · rintro ⟨-, h1, h2, used, h3, rfl⟩
      exact ⟨h1, (), h2, used, h3, rfl⟩

theorem palBody_eq_error {f : PalFormat} {n : SlotCount} {s : State} {e : Err}
    (he : palBody f n s = .error e) : e.code ≠ .none := by
  unfold palBody at he
  rcases bind_eq_error.1 he with h | ⟨_, -, he⟩
  · rw [(checkMapped_eq_error.1 h).2]; simp
  split at he
  · simp only [throw, throwThe, MonadExceptOf.throw, bind, Except.bind, Except.error.injEq] at he
    rw [← he]; simp
  · rcases bind_eq_error.1 he with h | ⟨_, -, he⟩
    · rw [(checkRange_eq_error.1 h).2]; simp
    rcases bind_eq_error.1 he with h | ⟨_, -, he⟩
    · rcases checkPalTable_eq_error h with h | h <;> rw [h] <;> simp
    rcases bind_eq_error.1 he with h | ⟨_, -, he⟩
    · rw [serializeSlots_eq_error h]; simp
    · cases pure_ne_error he

end Sys2Proof.Machine
end

