-- ==== Sys2Proof/Laws/PerInstr.lean ====
section
/-! SUPPORT. Facts about every instruction as syntax, one lemma per constructor: what the decoder reads from
the W0 that the encoder writes. -/

namespace Sys2Proof.Laws

/-- What W0 alone says of an instruction. -/
def headOf : Instr → Head
  | .endStream => .endStream
  | .nop => .nop
  | .setout _ _ => .setout
  | .qsnap b _ => .qsnap b
  | .qton b _ => .qton b
  | .qexp b _ => .qexp b
  | .qfix _ => .qfix
  | .mapclr => .mapclr
  | .mapbuild _ _ => .mapbuild
  | .maplook _ => .maplook
  | .tilePlanar2 _ _ _ _ _ => .tile .planar2
  | .tileInter2 _ _ _ _ _ => .tile .inter2
  | .tileNib4h _ _ _ _ _ => .tile .nib4h
  | .tileNib4l _ _ _ _ _ => .tile .nib4l
  | .tileBp4 _ _ _ _ _ => .tile .bp4
  | .tileLin8 _ _ _ _ _ => .tile .lin8
  | .tileMono1 _ _ _ _ _ => .tile .mono1
  | .tileMono1T16 _ _ _ _ _ => .tile .mono1T16
  | .tileMono1T16Rows _ _ _ _ _ => .tile .mono1T16Rows
  | .framePlanar2 _ _ _ => .frame .planar2
  | .frameInter2 _ _ _ => .frame .inter2
  | .frameNib4h _ _ _ => .frame .nib4h
  | .frameNib4l _ _ _ => .frame .nib4l
  | .frameBp4 _ _ _ => .frame .bp4
  | .frameLin8 _ _ _ => .frame .lin8
  | .frameMono1 _ _ _ => .frame .mono1
  | .frameMono1T16 _ _ _ => .frame .mono1T16
  | .frameMono1T16Rows _ _ _ => .frame .mono1T16Rows
  | .palSms slots => .pal .sms slots
  | .palGen slots => .pal .gen slots
  | .palBgr555 slots => .pal .bgr555 slots
  | .palMsx2 slots => .pal .msx2 slots
  | .palFixed slots => .pal .fixed slots
  | .palGenHf slots => .pal .genHf slots

/-- The decoder reads, from the W0 of a well-formed instruction, the instruction's own head. -/
def HeadRoundTrip.Statement (i : Instr) : Prop := i.WellFormed → decodeHead (encode i).w0 = some (headOf i)

theorem HeadRoundTrip.endStream : HeadRoundTrip.Statement .endStream :=
  fun _ => (by decide : decodeHead (encode (.endStream)).w0 = some (headOf (.endStream)))

theorem HeadRoundTrip.nop : HeadRoundTrip.Statement .nop :=
  fun _ => (by decide : decodeHead (encode (.nop)).w0 = some (headOf (.nop)))

theorem HeadRoundTrip.setout (out col : Word) : HeadRoundTrip.Statement (.setout out col) :=
  fun _ => (by decide : decodeHead (encode (.setout 0 0)).w0 = some (headOf (.setout 0 0)))

theorem HeadRoundTrip.qfix (c : Word) : HeadRoundTrip.Statement (.qfix c) :=
  fun _ => (by decide : decodeHead (encode (.qfix 0)).w0 = some (headOf (.qfix 0)))

theorem HeadRoundTrip.mapclr : HeadRoundTrip.Statement .mapclr :=
  fun _ => (by decide : decodeHead (encode (.mapclr)).w0 = some (headOf (.mapclr)))

theorem HeadRoundTrip.mapbuild (cl n : Word) : HeadRoundTrip.Statement (.mapbuild cl n) :=
  fun _ => (by decide : decodeHead (encode (.mapbuild 0 0)).w0 = some (headOf (.mapbuild 0 0)))

theorem HeadRoundTrip.maplook (px : Word) : HeadRoundTrip.Statement (.maplook px) :=
  fun _ => (by decide : decodeHead (encode (.maplook 0)).w0 = some (headOf (.maplook 0)))

theorem HeadRoundTrip.tilePlanar2 (fb : Word) (w h tx ty : Half) : HeadRoundTrip.Statement (.tilePlanar2 fb w h tx ty) :=
  fun _ => (by decide : decodeHead (encode (.tilePlanar2 0 0 0 0 0)).w0 = some (headOf (.tilePlanar2 0 0 0 0 0)))

theorem HeadRoundTrip.tileInter2 (fb : Word) (w h tx ty : Half) : HeadRoundTrip.Statement (.tileInter2 fb w h tx ty) :=
  fun _ => (by decide : decodeHead (encode (.tileInter2 0 0 0 0 0)).w0 = some (headOf (.tileInter2 0 0 0 0 0)))

theorem HeadRoundTrip.tileNib4h (fb : Word) (w h tx ty : Half) : HeadRoundTrip.Statement (.tileNib4h fb w h tx ty) :=
  fun _ => (by decide : decodeHead (encode (.tileNib4h 0 0 0 0 0)).w0 = some (headOf (.tileNib4h 0 0 0 0 0)))

theorem HeadRoundTrip.tileNib4l (fb : Word) (w h tx ty : Half) : HeadRoundTrip.Statement (.tileNib4l fb w h tx ty) :=
  fun _ => (by decide : decodeHead (encode (.tileNib4l 0 0 0 0 0)).w0 = some (headOf (.tileNib4l 0 0 0 0 0)))

theorem HeadRoundTrip.tileBp4 (fb : Word) (w h tx ty : Half) : HeadRoundTrip.Statement (.tileBp4 fb w h tx ty) :=
  fun _ => (by decide : decodeHead (encode (.tileBp4 0 0 0 0 0)).w0 = some (headOf (.tileBp4 0 0 0 0 0)))

theorem HeadRoundTrip.tileLin8 (fb : Word) (w h tx ty : Half) : HeadRoundTrip.Statement (.tileLin8 fb w h tx ty) :=
  fun _ => (by decide : decodeHead (encode (.tileLin8 0 0 0 0 0)).w0 = some (headOf (.tileLin8 0 0 0 0 0)))

theorem HeadRoundTrip.tileMono1 (fb : Word) (w h tx ty : Half) : HeadRoundTrip.Statement (.tileMono1 fb w h tx ty) :=
  fun _ => (by decide : decodeHead (encode (.tileMono1 0 0 0 0 0)).w0 = some (headOf (.tileMono1 0 0 0 0 0)))

theorem HeadRoundTrip.tileMono1T16 (fb : Word) (w h tx ty : Half) : HeadRoundTrip.Statement (.tileMono1T16 fb w h tx ty) :=
  fun _ => (by decide : decodeHead (encode (.tileMono1T16 0 0 0 0 0)).w0 = some (headOf (.tileMono1T16 0 0 0 0 0)))

theorem HeadRoundTrip.tileMono1T16Rows (fb : Word) (w h tx ty : Half) : HeadRoundTrip.Statement (.tileMono1T16Rows fb w h tx ty) :=
  fun _ => (by decide : decodeHead (encode (.tileMono1T16Rows 0 0 0 0 0)).w0 = some (headOf (.tileMono1T16Rows 0 0 0 0 0)))

theorem HeadRoundTrip.framePlanar2 (fb : Word) (w h : Half) : HeadRoundTrip.Statement (.framePlanar2 fb w h) :=
  fun _ => (by decide : decodeHead (encode (.framePlanar2 0 0 0)).w0 = some (headOf (.framePlanar2 0 0 0)))

theorem HeadRoundTrip.frameInter2 (fb : Word) (w h : Half) : HeadRoundTrip.Statement (.frameInter2 fb w h) :=
  fun _ => (by decide : decodeHead (encode (.frameInter2 0 0 0)).w0 = some (headOf (.frameInter2 0 0 0)))

theorem HeadRoundTrip.frameNib4h (fb : Word) (w h : Half) : HeadRoundTrip.Statement (.frameNib4h fb w h) :=
  fun _ => (by decide : decodeHead (encode (.frameNib4h 0 0 0)).w0 = some (headOf (.frameNib4h 0 0 0)))

theorem HeadRoundTrip.frameNib4l (fb : Word) (w h : Half) : HeadRoundTrip.Statement (.frameNib4l fb w h) :=
  fun _ => (by decide : decodeHead (encode (.frameNib4l 0 0 0)).w0 = some (headOf (.frameNib4l 0 0 0)))

theorem HeadRoundTrip.frameBp4 (fb : Word) (w h : Half) : HeadRoundTrip.Statement (.frameBp4 fb w h) :=
  fun _ => (by decide : decodeHead (encode (.frameBp4 0 0 0)).w0 = some (headOf (.frameBp4 0 0 0)))

theorem HeadRoundTrip.frameLin8 (fb : Word) (w h : Half) : HeadRoundTrip.Statement (.frameLin8 fb w h) :=
  fun _ => (by decide : decodeHead (encode (.frameLin8 0 0 0)).w0 = some (headOf (.frameLin8 0 0 0)))

theorem HeadRoundTrip.frameMono1 (fb : Word) (w h : Half) : HeadRoundTrip.Statement (.frameMono1 fb w h) :=
  fun _ => (by decide : decodeHead (encode (.frameMono1 0 0 0)).w0 = some (headOf (.frameMono1 0 0 0)))

theorem HeadRoundTrip.frameMono1T16 (fb : Word) (w h : Half) : HeadRoundTrip.Statement (.frameMono1T16 fb w h) :=
  fun _ => (by decide : decodeHead (encode (.frameMono1T16 0 0 0)).w0 = some (headOf (.frameMono1T16 0 0 0)))

theorem HeadRoundTrip.frameMono1T16Rows (fb : Word) (w h : Half) : HeadRoundTrip.Statement (.frameMono1T16Rows fb w h) :=
  fun _ => (by decide : decodeHead (encode (.frameMono1T16Rows 0 0 0)).w0 = some (headOf (.frameMono1T16Rows 0 0 0)))

theorem HeadRoundTrip.qsnap (b : BitVec 4) (c : Word) : HeadRoundTrip.Statement (.qsnap b c) := by
  have h : ∀ b : BitVec 4, legalDepth b = true → decodeHead (encode (.qsnap b 0)).w0 = some (.qsnap b) := by decide
  exact h b

theorem HeadRoundTrip.qton (b : BitVec 4) (c : Word) : HeadRoundTrip.Statement (.qton b c) := by
  have h : ∀ b : BitVec 4, legalDepth b = true → decodeHead (encode (.qton b 0)).w0 = some (.qton b) := by decide
  exact h b

theorem HeadRoundTrip.qexp (b : BitVec 4) (c : Word) : HeadRoundTrip.Statement (.qexp b c) := by
  have h : ∀ b : BitVec 4, legalDepth b = true → decodeHead (encode (.qexp b 0)).w0 = some (.qexp b) := by decide
  exact h b

theorem HeadRoundTrip.palSms (slots : SlotCount) : HeadRoundTrip.Statement (.palSms slots) := by
  intro _
  cases slots <;> decide

theorem HeadRoundTrip.palGen (slots : SlotCount) : HeadRoundTrip.Statement (.palGen slots) := by
  intro _
  cases slots <;> decide

theorem HeadRoundTrip.palBgr555 (slots : SlotCount) : HeadRoundTrip.Statement (.palBgr555 slots) := by
  intro _
  cases slots <;> decide

theorem HeadRoundTrip.palMsx2 (slots : SlotCount) : HeadRoundTrip.Statement (.palMsx2 slots) := by
  intro _
  cases slots <;> decide

theorem HeadRoundTrip.palFixed (slots : SlotCount) : HeadRoundTrip.Statement (.palFixed slots) := by
  intro _
  cases slots <;> decide

theorem HeadRoundTrip.palGenHf (slots : SlotCount) : HeadRoundTrip.Statement (.palGenHf slots) := by
  intro _
  cases slots <;> decide

end Sys2Proof.Laws
end

