-- ==== Sys2Proof/Laws/Step.lean ====
section
/-! SUPPORT. What a step can do, said once: the fetch, a step of the block, an action of the host, and the
meanings of TILE, FRAME and PAL as one body each. -/

namespace Sys2Proof.Machine

/-! ## The families as one body -/

theorem exec_tileInstr (L : TileLayout) (fb : Word) (w h tx ty : Half) (s : State) :
    exec (tileInstr L fb w h tx ty) s = complete s (tileBody L fb w h tx ty s) := by cases L <;> rfl

theorem exec_frameInstr (L : TileLayout) (fb : Word) (w h : Half) (s : State) :
    exec (frameInstr L fb w h) s = complete s (frameBody L fb w h s) := by cases L <;> rfl

theorem exec_palInstr (f : PalFormat) (n : SlotCount) (s : State) :
    exec (palInstr f n) s = complete s (palBody f n s) := by cases f <;> rfl

/-! ## Warnings -/

/-- All the misses of a command at once: the saturating count, and the first miss latched (60_exceptions.md
R310). -/
theorem warnAll_eq (ms : List Word) (s : State) : warnAll ms s = { s with
    warnCount := BitVec.ofNat 32 (min (s.warnCount.toNat + ms.length) Config.wordMax)
    warnRgba := if s.warnCount = 0#32 then ms.headD s.warnRgba else s.warnRgba } := by
  induction ms generalizing s with
  | nil =>
    have h := s.warnCount.isLt
    have e : BitVec.ofNat 32 (min s.warnCount.toNat Config.wordMax) = s.warnCount := by
      apply BitVec.eq_of_toNat_eq
      simp [Config.wordMax]
      omega
    simp [warnAll, e]
  | cons m ms ih =>
    have h := s.warnCount.isLt
    rw [warnAll, ih]
    unfold warn
    by_cases hlt : s.warnCount.toNat < Config.wordMax
    · have hw : Config.wordMax = 4294967295 := rfl
      have hne : s.warnCount + 1#32 ≠ 0#32 := fun he => by
        have := congrArg BitVec.toNat he
        simp at this
        omega
      have hc : (s.warnCount + 1#32).toNat + ms.length = s.warnCount.toNat + (ms.length + 1) := by
        rw [BitVec.toNat_add]
        simp
        omega
      simp only [hlt, if_true, hne, if_false, hc, List.length_cons, List.headD_cons]
    · have hw : Config.wordMax = 4294967295 := rfl
      have h0 : s.warnCount ≠ 0#32 := fun he => by simp [he, hw] at hlt
      have hc : min (s.warnCount.toNat + ms.length) Config.wordMax =
          min (s.warnCount.toNat + (ms.length + 1)) Config.wordMax := by omega
      simp only [hlt, if_false, h0, List.length_cons, hc]

/-! ## Fetch -/

theorem fetchAligned_eq {s : State} : fetchAligned s = true ↔ s.cmdPtr.toNat % 4 = 0 := by simp [fetchAligned]

/-- A fetch answers an instruction exactly when CMD_PTR is aligned, the descriptor is in BUF and it decodes. -/
theorem fetch_eq_ok {s : State} {i : Instr} :
    fetch s = .ok i ↔
      s.cmdPtr.toNat % 4 = 0 ∧ inRange s (fetchRange s) ∧ decode (fetchDescriptor s) = .ok i := by
  unfold fetch
  by_cases ha : s.cmdPtr.toNat % 4 = 0
  · simp only [fetchAligned_eq.2 ha, Bool.true_eq_false, if_false, bind_eq_ok, checkRange_eq_ok,
      exists_const, ha, true_and]
    cases decode (fetchDescriptor s) <;> simp
  · have hf : fetchAligned s = false := by simpa [fetchAligned] using ha
    simp [hf, ha, throw, throwThe, MonadExceptOf.throw, bind, Except.bind]

/-- A fetch fails with ALIGN, BOUNDS or ILLEGAL (60_exceptions.md R301). -/
theorem fetch_eq_error {s : State} {e : Err} (h : fetch s = .error e) :
    e.code = .align ∨ e.code = .bounds ∨ e.code = .illegal := by
  unfold fetch at h
  by_cases ha : fetchAligned s = true
  · simp only [ha, Bool.true_eq_false, if_false] at h
    rcases bind_eq_error.1 h with h | ⟨_, -, h⟩
    · exact .inr (.inl ((checkRange_eq_error.1 h).2 ▸ rfl))
    · split at h
      · exact .inr (.inr ((Except.error.inj h) ▸ rfl))
      · cases h
  · have hf : fetchAligned s = false := by simpa using ha
    simp only [hf, if_true, throw, throwThe, MonadExceptOf.throw, bind, Except.bind, Except.error.injEq] at h
    exact .inl (h ▸ rfl)

/-! ## Steps -/

/-- What a step of the block can do: nothing while idle; the abort of the fetch; the fetched command. -/
theorem blockStep_next {s t : State} (h : blockStep s = .next t) :
    (s.busy = false ∧ t = s) ∨ (s.busy = true ∧ ∃ e, fetch s = .error e ∧ t = abort e s) ∨
      (s.busy = true ∧ ∃ i, fetch s = .ok i ∧ exec i s = .next t) := by
  unfold blockStep at h
  cases hb : s.busy
  · simp only [hb, Bool.false_eq_true, if_false, Host.Outcome.next.injEq] at h
    exact .inl ⟨rfl, h.symm⟩
  · simp only [hb, if_true] at h
    cases hf : fetch s with
    | error e =>
      simp only [hf, Host.Outcome.next.injEq] at h
      exact .inr (.inl ⟨rfl, e, rfl, h.symm⟩)
    | ok i =>
      simp only [hf] at h
      exact .inr (.inr ⟨rfl, i, rfl, h⟩)

/-- What an action of the host or the platform can do. -/
theorem hostStep_next {act : HostAction} {s t : State} (h : hostStep act s = .next t) :
    (act = .letRun ∧ blockStep s = .next t) ∨ (∃ k v, act = .writeReg k v ∧ t = writeReg k v s) ∨
      (∃ base bs, act = .loadBuf base bs ∧ s.busy = false ∧ base + bs.length ≤ s.memSize ∧
        t = { s with buf := s.buf.writeBytes base bs }) ∨
      ∃ cells, act = .powerOn cells ∧ t = powerOnReset cells s := by
  cases act with
  | letRun => exact .inl ⟨rfl, h⟩
  | writeReg k v => exact .inr (.inl ⟨k, v, rfl, (Host.Outcome.next.inj h).symm⟩)
  | loadBuf base bs =>
    refine .inr (.inr (.inl ⟨base, bs, rfl, ?_⟩))
    simp only [hostStep, hostLoad] at h
    cases hb : s.busy
    · simp only [hb, Bool.false_eq_true, if_false] at h
      split at h
      · exact ⟨rfl, ‹_›, (Host.Outcome.next.inj h).symm⟩
      · cases h
    · simp [hb] at h
  | powerOn cells => exact .inr (.inr (.inr ⟨cells, rfl, (Host.Outcome.next.inj h).symm⟩))

/-- What a step of the machine can do: the host's next action if it has one to come, else a step of the
block. -/
theorem step_next {s t : State} (h : step s = .next t) :
    (s.host = [] ∧ blockStep s = .next t) ∨
      ∃ act rest, s.host = act :: rest ∧ hostStep act { s with host := rest } = .next t := by
  unfold step agentStep at h
  cases hh : s.host with
  | nil => exact .inl ⟨rfl, by simpa only [hh] using h⟩
  | cons act rest => exact .inr ⟨act, rest, rfl, by simpa only [hh] using h⟩

@[simp] theorem boundary_zero (origin : State) : boundary 0 origin = origin := rfl

/-- A register write sets BUSY only as a write of CTRL with GO and without SRST (10_state.md R32). -/
theorem writeReg_busy_rises {k : Nat} {v : Word} {s : State} (h0 : s.busy = false)
    (h1 : (writeReg k v s).busy = true) : k = 0x001 ∧ v.getLsbD 0 = true ∧ v.getLsbD 3 = false := by
  unfold writeReg at h1
  by_cases hk : k = 0x001
  · refine ⟨hk, ?_⟩
    simp only [hk, if_true, writeCtrl] at h1
    cases h3 : v.getLsbD 3
    · cases h2 : v.getLsbD 0
      · cases hc : v.getLsbD 1 <;>
          simp only [h0, h2, h3, hc, Bool.false_eq_true, if_false, if_true, clearWarnings_busy] at h1
      · exact ⟨rfl, rfl⟩
    · rw [h3] at h1
      cases h1
  · simp only [hk, if_false, h0, Bool.false_eq_true] at h1
    split at h1 <;> simp [h0, writeMaxColors, writeFixCount] at h1

/-- BUSY rises by a write of CTRL with GO and without SRST, and by nothing else: the first busy boundary of a run
is what a GO leaves (40_stream_control.md R140). -/
theorem step_busy_rises_by_go {s t : State} (h : step s = .next t) (h0 : s.busy = false) (h1 : t.busy = true) :
    ∃ v rest, s.host = .writeReg 0x001 v :: rest ∧ v.getLsbD 0 = true ∧ v.getLsbD 3 = false := by
  have idle : ∀ u : State, u.busy = false → blockStep u ≠ .next t := fun u hu hb => by
    rcases blockStep_next hb with ⟨-, rfl⟩ | ⟨hu', -⟩ | ⟨hu', -⟩
    · simp [hu] at h1
    · simp [hu] at hu'
    · simp [hu] at hu'
  rcases step_next h with ⟨-, hb⟩ | ⟨act, rest, hh, ha⟩
  · exact absurd hb (idle s h0)
  · rcases hostStep_next ha with ⟨-, hb⟩ | ⟨k, v, rfl, rfl⟩ | ⟨_, _, -, -, -, rfl⟩ | ⟨_, -, rfl⟩
    · exact absurd hb (idle { s with host := rest } h0)
    · obtain ⟨rfl, hv⟩ := writeReg_busy_rises (s := { s with host := rest }) h0 h1
      exact ⟨v, rest, hh, hv⟩
    · simp [h0] at h1
    · cases h1

end Sys2Proof.Machine
end

