-- ==== Sys2Proof/Tests/Slice0.lean ====
section
/-! SUPPORT. Tests of the model on small states, and a witness for the hypotheses of every obligation that has
some. The expected values are those of spec/95_test_vectors.md and of the examples in the rules, or worked out
by hand from the rules; each theorem names its source. -/

namespace Sys2Proof.Tests

set_option Elab.async false

open Sys2Proof Sys2Proof.Machine

/-! ## Helpers -/

/-- A field of the state a step answers. -/
def after {α : Type} (o : Host.Outcome State Fault Refusal) (f : State → α) : Option α :=
  match o with
  | .next t => some (f t)
  | .fault _ => none
  | .refused _ => none

/-- A field read from a step's answer shows that the answer is a next state. -/
theorem next_of_after {α : Type} {o : Host.Outcome State Fault Refusal} {f : State → α} {a : α}
    (h : after o f = some a) : ∃ t : State, o = .next t ∧ f t = a := by
  cases o with
  | next t => exact ⟨t, rfl, Option.some.inj h⟩
  | fault r => cases h
  | refused r => cases h

/-- The fault a step answers. -/
def faultOf (o : Host.Outcome State Fault Refusal) : Option Fault :=
  match o with
  | .next _ => none
  | .fault r => some r
  | .refused _ => none

/-- The refusal a step answers. -/
def refusalOf (o : Host.Outcome State Fault Refusal) : Option Refusal :=
  match o with
  | .next _ => none
  | .fault _ => none
  | .refused r => some r

/-- The error code and the info words. -/
def errorWords (s : State) : ErrCode × Word × Word := (s.errCode, s.errA, s.errB)

/-- BUF bytes from an address on. -/
def bytesAt (a n : Nat) (s : State) : List Byte := (List.range n).map fun j => s.buf.read (a + j)

/-- A word put in BUF. -/
def poke (a : Nat) (w : Word) (s : State) : State := { s with buf := s.buf.writeBytes a (bytesOfWord w) }

/-- A running machine of 4096 bytes, every byte 0. -/
def running : State := { State.reset with memSize := 4096, busy := true }

/-- The same machine, idle. -/
def idle : State := { running with busy := false }

/-- A running machine with the mapping red, green, blue, OUT_PTR = 0x800 and COL_PTR = 0xA00. -/
def mapped : State := { setLut [0x0000FF#24, 0x00FF00#24, 0xFF0000#24] running with outPtr := 0x800, colPtr := 0xA00 }

/-- ... with a frame at 0x100 whose pixel k (in raster order) is red, and the fixed table {red: code 5} at
0xC00. -/
def redPixel (k : Nat) : State :=
  poke 0xC00 0x050000FF#32 (poke (0x100 + 4 * k) 0xFF0000FF#32 { mapped with fixBase := 0xC00, fixCount := 1 })

/-- The fixed table of 95_test_vectors.md, section 2.2.2, at 0x800. -/
def threeEntries : State :=
  poke 0x808 0x050000FF#32 (poke 0x804 0x2A00FF00#32 (poke 0x800 0x160000FF#32
    { running with fixBase := 0x800, fixCount := 3 }))

/-- The colour list of vector M1 at 0x800: red, a sentinel, green, blue. -/
def listM1 : State :=
  poke 0x80C 0xFFFF0000#32 (poke 0x808 0xFF00FF00#32 (poke 0x804 0x00000000#32 (poke 0x800 0xFF0000FF#32 running)))

/-- ... with a finite limit. -/
def limitedM1 (m : Byte) : State := { listM1 with unlimited := false, maxLimit := m }

/-- The colour list of vector M3 at 0x800: red, green, red with alpha 128. -/
def listM3 : State := poke 0x808 0x800000FF#32 (poke 0x804 0xFF00FF00#32 (poke 0x800 0xFF0000FF#32 running))

/-! ## WellFormed: each check refuses an ill-formed term (30_encoding.md R104, R109) -/

theorem test_wellformed_qsnap_depth_zero : ¬ (Instr.qsnap 0 0).WellFormed := by decide
theorem test_wellformed_qsnap_depth_nine : ¬ (Instr.qsnap 9 0).WellFormed := by decide
theorem test_wellformed_qton_depth_zero : ¬ (Instr.qton 0 0).WellFormed := by decide
theorem test_wellformed_qton_depth_nine : ¬ (Instr.qton 9 0).WellFormed := by decide
theorem test_wellformed_qexp_depth_zero : ¬ (Instr.qexp 0 0).WellFormed := by decide
theorem test_wellformed_qexp_depth_nine : ¬ (Instr.qexp 9 0).WellFormed := by decide
theorem test_wellformed_depth_bounds :
    (Instr.qsnap 1 0).WellFormed ∧ (Instr.qsnap 8 0).WellFormed ∧ (Instr.qexp 8 0).WellFormed := by decide

/-! ## Decoding of words written out from 30_encoding.md R101 to R108 -/

theorem test_decode_end : decode ⟨0x00000000, 0, 0, 0⟩ = .ok .endStream := by decide
theorem test_decode_nop : decode ⟨0x00000001, 0, 0, 0⟩ = .ok .nop := by decide
theorem test_decode_setout : decode ⟨0x00000002, 0x2000, 0x3000, 0⟩ = .ok (.setout 0x2000 0x3000) := by decide
theorem test_decode_qsnap : decode ⟨0x00000310, 0xFF4080FF, 0, 0⟩ = .ok (.qsnap 3 0xFF4080FF) := by decide
theorem test_decode_qton : decode ⟨0x00000811, 0xFF4080FF, 0, 0⟩ = .ok (.qton 8 0xFF4080FF) := by decide
theorem test_decode_qexp : decode ⟨0x00000112, 0x12010001, 0, 0⟩ = .ok (.qexp 1 0x12010001) := by decide
theorem test_decode_qfix : decode ⟨0x00000013, 0xFF0000FF, 0, 0⟩ = .ok (.qfix 0xFF0000FF) := by decide
theorem test_decode_mapclr : decode ⟨0x00000020, 0, 0, 0⟩ = .ok .mapclr := by decide
theorem test_decode_mapbuild : decode ⟨0x00000021, 0x800, 3, 0⟩ = .ok (.mapbuild 0x800 3) := by decide
theorem test_decode_maplook : decode ⟨0x00000022, 0xFF00FF00, 0, 0⟩ = .ok (.maplook 0xFF00FF00) := by decide
theorem test_decode_tile_planar2 :
    decode ⟨0x00000030, 0x1000, 0x00100020, 0x00030001⟩ = .ok (.tilePlanar2 0x1000 32 16 1 3) := by decide
theorem test_decode_tile_inter2 :
    decode ⟨0x00000130, 0x1000, 0x00100020, 0x00030001⟩ = .ok (.tileInter2 0x1000 32 16 1 3) := by decide
theorem test_decode_tile_nib4h :
    decode ⟨0x00000230, 0x1000, 0x00100020, 0x00030001⟩ = .ok (.tileNib4h 0x1000 32 16 1 3) := by decide
theorem test_decode_tile_nib4l :
    decode ⟨0x00000330, 0x1000, 0x00100020, 0x00030001⟩ = .ok (.tileNib4l 0x1000 32 16 1 3) := by decide
theorem test_decode_tile_bp4 :
    decode ⟨0x00000430, 0x1000, 0x00100020, 0x00030001⟩ = .ok (.tileBp4 0x1000 32 16 1 3) := by decide
theorem test_decode_tile_lin8 :
    decode ⟨0x00000530, 0x1000, 0x00100020, 0x00030001⟩ = .ok (.tileLin8 0x1000 32 16 1 3) := by decide
theorem test_decode_tile_mono1 :
    decode ⟨0x00000630, 0x1000, 0x00100020, 0x00030001⟩ = .ok (.tileMono1 0x1000 32 16 1 3) := by decide
theorem test_decode_tile_mono1_t16 :
    decode ⟨0x00010630, 0x1000, 0x00100020, 0x00030001⟩ = .ok (.tileMono1T16 0x1000 32 16 1 3) := by decide
theorem test_decode_tile_mono1_t16_rows :
    decode ⟨0x00030630, 0x2000, 0x00100020, 0x00000001⟩ = .ok (.tileMono1T16Rows 0x2000 32 16 1 0) := by decide
theorem test_decode_frame_planar2 :
    decode ⟨0x00000031, 0x1000, 0x00100020, 0⟩ = .ok (.framePlanar2 0x1000 32 16) := by decide
theorem test_decode_frame_inter2 :
    decode ⟨0x00000131, 0x1000, 0x00100020, 0⟩ = .ok (.frameInter2 0x1000 32 16) := by decide
theorem test_decode_frame_nib4h :
    decode ⟨0x00000231, 0x1000, 0x00100020, 0⟩ = .ok (.frameNib4h 0x1000 32 16) := by decide
theorem test_decode_frame_nib4l :
    decode ⟨0x00000331, 0x1000, 0x00100020, 0⟩ = .ok (.frameNib4l 0x1000 32 16) := by decide
theorem test_decode_frame_bp4 :
    decode ⟨0x00000431, 0x1000, 0x00100020, 0⟩ = .ok (.frameBp4 0x1000 32 16) := by decide
theorem test_decode_frame_lin8 :
    decode ⟨0x00000531, 0x1000, 0x00100020, 0⟩ = .ok (.frameLin8 0x1000 32 16) := by decide
theorem test_decode_frame_mono1 :
    decode ⟨0x00000631, 0x1000, 0x00100020, 0⟩ = .ok (.frameMono1 0x1000 32 16) := by decide
theorem test_decode_frame_mono1_t16 :
    decode ⟨0x00010631, 0x1000, 0x00100020, 0⟩ = .ok (.frameMono1T16 0x1000 32 16) := by decide
theorem test_decode_frame_mono1_t16_rows :
    decode ⟨0x00030631, 0x1000, 0x00100020, 0⟩ = .ok (.frameMono1T16Rows 0x1000 32 16) := by decide
theorem test_decode_pal_sms : decode ⟨0x00000040, 0, 0, 0⟩ = .ok (.palSms .s4) := by decide
theorem test_decode_pal_gen : decode ⟨0x00001140, 0, 0, 0⟩ = .ok (.palGen .s16) := by decide
theorem test_decode_pal_bgr555 : decode ⟨0x00002240, 0, 0, 0⟩ = .ok (.palBgr555 .s256) := by decide
theorem test_decode_pal_msx2 : decode ⟨0x00000340, 0, 0, 0⟩ = .ok (.palMsx2 .s4) := by decide
theorem test_decode_pal_fixed : decode ⟨0x00002440, 0, 0, 0⟩ = .ok (.palFixed .s256) := by decide
theorem test_decode_pal_gen_hf : decode ⟨0x00011140, 0, 0, 0⟩ = .ok (.palGenHf .s16) := by decide

/-- The illegal descriptors of 95_test_vectors.md section 2.1, with W0 as the first illegal word. -/
theorem test_decode_illegal_w0 :
    (([0x00000010, 0x00000910, 0x00000003, 0x00000541, 0x00004001, 0x80000000, 0x00000120, 0x00001021, 0x00010530,
      0x00020630, 0x00040030, 0x00000731, 0x00003040, 0x00000540, 0x00010240] : List Word).all fun w =>
        decide (decode ⟨w, 0, 0, 0⟩ = .error .illegalW0)) = true := by decide +kernel

/-- The illegal descriptors of 95_test_vectors.md section 2.1, with an operand word as the first illegal one. -/
theorem test_decode_illegal_operand :
    decode ⟨0x00000310, 0, 1, 0⟩ = .error .illegalW2 ∧ decode ⟨0x00000001, 1, 0, 0⟩ = .error .illegalW1 ∧
      decode ⟨0x00000002, 0, 0, 7⟩ = .error .illegalW3 ∧ decode ⟨0x00000013, 0, 0, 9⟩ = .error .illegalW3 ∧
      decode ⟨0x00000031, 0x1000, 0x00080008, 5⟩ = .error .illegalW3 := by decide

/-- Fewer than sixteen bytes are no command. -/
theorem test_decode_truncated : decodeBytes (List.replicate 15 0) = .error .truncated := by decide +kernel

/-- The table's numbering: W0 in bits 31..0, W1 in bits 63..32, W2 in bits 95..64. -/
theorem test_decode_table_word :
    decodeTableWord 96 0x000000030000080000000021 = some (.mapbuild 0x800 3) ∧
      decodeTableWord 32 0x00030630 = some (.tileMono1T16Rows 0 0 0 0 0) ∧ decodeTableWord 32 0x10 = none := by decide

/-! ## The assembler (30_encoding.md R113, R115) -/

theorem test_assemble_color_bytes :
    assembleLine "  qsnap 3, #FF8040 ; comment" =
      some [.bytes [0x10, 0x03, 0, 0, 0xFF, 0x80, 0x40, 0xFF, 0, 0, 0, 0, 0, 0, 0, 0]] := by decide
theorem test_assemble_directives :
    assemble [".org 0x10", ".rgba #12345678", ".byte 7", ""] =
      some [(16, 0x12), (17, 0x34), (18, 0x56), (19, 0x78), (20, 7)] := by decide
theorem test_assemble_refuses_illegal :
    assembleLine "qsnap 9, 0" = none ∧ assembleLine "tile.lin8.t16 0, 8, 8, 0, 0" = none ∧
      assembleLine "pal.sms 8" = none := by decide

/-! ## The step: fetch, decode, execute, abort -/

/-- SC1 and SC9 with IE = 1: DONE and IRQ in STATUS, CMD_PTR = 0x10. -/
theorem test_step_end : after (step { running with ie := true }) (fun t => (readReg t 0x002, t.cmdPtr)) =
    some (0x12, 0x10) := by decide

/-- SC5 and SC6 on 4096 bytes: ALIGN, then BOUNDS. -/
theorem test_step_fetch_errors :
    after (step { running with cmdPtr := 2 }) errorWords = some (.align, 2, 0) ∧
      after (step { running with cmdPtr := 0xFF8 }) errorWords = some (.bounds, 0xFF8, 0x10) := by decide

/-- SC10: OP = 0x03 is ILLEGAL, W0 in ERR_A, word index 0, CMD_PTR kept, irq with IE = 1. -/
theorem test_step_illegal :
    after (step (poke 0 3 { running with ie := true })) (fun t => (readReg t 0x002, t.errA, t.errB, t.cmdPtr)) =
      some (0x114, 3, 0, 0) := by decide

/-- SC7: the last descriptor of BUF, then BOUNDS past the end. -/
theorem test_step_end_of_buf :
    after (step { running with cmdPtr := 0xFF0 }) (fun t => t.cmdPtr) = some 0x1000 ∧
      after (step { running with cmdPtr := 0x1000 }) errorWords = some (.bounds, 0x1000, 0x10) := by decide

/-- withFetchWord: from reset the next step runs `qsnap 3, #FF8040` (Q1). -/
theorem test_step_with_fetch_word :
    after (step (State.reset.withFetchWord 64 0xFF4080FF00000310)) (fun t => (t.result, t.cmdPtr)) =
      some (0xFF4992FF, 16) := by decide

/-- P1's way from reset (log 5): the host loads a NOP, starts the stream with IE (H8), and lets it run twice. -/
theorem test_step_host_script :
    after (Host.Core.run Sys2Proof.core 5 { State.reset with
      host := [.loadBuf 0 [1], .writeReg 0x001 5, .letRun, .letRun] }) (fun t => (readReg t 0x002, t.cmdPtr)) =
      some (0x12, 0x20) := by decide

/-- H2, H5, QF6, H9: CLRWARN, SRST, a WARL write, a write ignored while busy. -/
theorem test_host_register_writes :
    after (step { idle with warnCount := 2, warnRgba := 9, host := [.writeReg 1 2] })
        (fun t => (t.warnCount, t.warnRgba)) = some (0, 0) ∧
      after (step { running with outPtr := 9, host := [.writeReg 1 8] }) (fun t => (t.busy, t.outPtr)) =
        some (false, 0) ∧
      after (step { idle with host := [.writeReg 8 0x1000] }) (fun t => readReg t 8) = some 0x100 ∧
      after (step { running with host := [.writeReg 6 3] }) (fun t => readReg t 6) = some 0x80000000 := by decide

/-- H6 and H7: ID and two reserved indices. -/
theorem test_host_register_reads :
    readReg idle 0 = 0x52500701 ∧ readReg idle 0x00F = 0 ∧ readReg idle 0x200 = 0 := by decide

/-- P1 of 93_implementation_defined.md is refused, and a load outside BUF faults (logs 6 and 12). -/
theorem test_host_load_stops :
    refusalOf (step { running with host := [.loadBuf 0 [1]] }) = some .hostWroteBufWhileBusy ∧
      faultOf (step { idle with host := [.loadBuf 0xFFF [1, 2]] }) = some .hostOutsideBuf := by decide

/-! ## Stream control -/

theorem test_exec_end : after (exec .endStream running) (fun t => (t.done, t.busy, t.cmdPtr)) =
    some (true, false, 0x10) := by decide  -- SC1
theorem test_exec_nop : after (exec .nop { running with cmdPtr := 0x10 }) (fun t => (t.cmdPtr, t.busy, t.done)) =
    some (0x20, true, false) := by decide  -- the example of R142
theorem test_exec_setout : after (exec (.setout 0x2000 0x3000) running) (fun t => (t.outPtr, t.colPtr)) =
    some (0x2000, 0x3000) := by decide  -- SC3

/-! ## Quantizer: vectors Q1 to Q18 and QF1 to QF5 -/

theorem test_exec_qsnap_q1 : after (exec (.qsnap 3 0xFF4080FF) running) (·.result) = some 0xFF4992FF := by decide
theorem test_exec_qsnap_q7 : after (exec (.qsnap 5 0x400C0B0A) running) (·.result) = some 0x40080808 := by decide
theorem test_exec_qton_q10 : after (exec (.qton 5 0xFF4080FF) running) (·.result) = some 0xFF08101F := by decide
theorem test_exec_qton_q12 : after (exec (.qton 1 0xFF00807F) running) (·.result) = some 0xFF000100 := by decide
theorem test_exec_qexp_q15 : after (exec (.qexp 5 0x00081F10) running) (·.result) = some 0x0042FF84 := by decide
theorem test_exec_qexp_q17 : after (exec (.qexp 3 0xFF020807) running) (fun t => (errorWords t, t.result)) =
    some ((.range, 0xFF020807, 8), 0) := by decide
theorem test_exec_qfix_qf2 : after (exec (.qfix 0x0000FF00) threeEntries) (·.result) = some 0x8000012A := by decide
theorem test_exec_qfix_qf4 :
    after (exec (.qfix 0xFF0000FF) { running with fixBase := 0xFF8, fixCount := 3 }) errorWords =
      some (.bounds, 0xFF8, 12) := by decide

/-! ## Mapper: vectors M1, M3, M9 -/

theorem test_exec_mapclr_m9 :
    after (exec .mapclr mapped) (fun t => (readReg t 0x00D, readReg t 0x101)) = some (0, 0) := by decide +kernel
theorem test_exec_mapbuild_m1 :
    after (exec (.mapbuild 0x800 4) (limitedM1 3))
      (fun t => (readReg t 0x00D, readReg t 0x101, readReg t 0x102, readReg t 0x103)) =
      some (0x80000003, 0x0000FF, 0x00FF00, 0xFF0000) := by decide +kernel
theorem test_exec_mapbuild_m3 :
    after (exec (.mapbuild 0x800 3) listM3) (fun t => (errorWords t, t.lutValid)) =
      some ((.dupColor, 2, 0x0000FF), false) := by decide +kernel
theorem test_exec_maplook_m1_hit : after (exec (.maplook 0x80FF0000) mapped) (·.result) = some 3 := by decide +kernel
theorem test_exec_maplook_m1_miss :
    after (exec (.maplook 0xFF563412) mapped) (fun t => (t.result, t.warnCount, t.warnRgba)) =
      some (1, 1, 0xFF563412) := by decide +kernel

/-! ## Layouts: the matrices of 95_test_vectors.md section 2.4.1 -/

/-- An n by n slot matrix from its slot at (x, y). -/
def matrix (n : Nat) (f : Nat → Nat → Nat) : List (List Byte) :=
  (List.range n).map fun y => (List.range n).map fun x => BitVec.ofNat 8 (f x y)

theorem test_layout_planar2 : patternBytes .planar2 (matrix 8 fun x y => (x + 2 * y) % 4) =
    [0x55, 0x55, 0x55, 0x55, 0x55, 0x55, 0x55, 0x55, 0x33, 0xCC, 0x33, 0xCC, 0x33, 0xCC, 0x33, 0xCC] := by
  decide +kernel
theorem test_layout_inter2 : patternBytes .inter2 (matrix 8 fun x y => (x + 2 * y) % 4) =
    [0x55, 0x33, 0x55, 0xCC, 0x55, 0x33, 0x55, 0xCC, 0x55, 0x33, 0x55, 0xCC, 0x55, 0x33, 0x55, 0xCC] := by
  decide +kernel
theorem test_layout_nib4h : (patternBytes .nib4h (matrix 8 fun x y => (x + 3 * y) % 16)).take 8 =
    [0x01, 0x23, 0x45, 0x67, 0x34, 0x56, 0x78, 0x9A] := by decide +kernel
theorem test_layout_nib4l : (patternBytes .nib4l (matrix 8 fun x y => (x + 3 * y) % 16)).take 8 =
    [0x10, 0x32, 0x54, 0x76, 0x43, 0x65, 0x87, 0xA9] := by decide +kernel
theorem test_layout_bp4 : patternBytes .bp4 (matrix 8 fun x y => (x + 3 * y) % 16) =
    [0x55, 0x33, 0xAA, 0x99, 0x55, 0xCC, 0xAA, 0x66, 0x55, 0x33, 0xAA, 0x99, 0x55, 0xCC, 0xAA, 0x66,
      0x0F, 0x00, 0x78, 0x07, 0xC3, 0x3F, 0x1E, 0xFE, 0xF0, 0xF0, 0x87, 0x80, 0x3C, 0x03, 0xE1, 0x1F] := by
  decide +kernel
theorem test_layout_lin8 : patternBytes .lin8 (matrix 8 fun x y => 8 * y + x) =
    (List.range 64).map (BitVec.ofNat 8) := by decide +kernel
theorem test_layout_mono1 :  -- MO1
    patternBytes .mono1 (matrix 8 fun x y => if x = y ∨ x = 7 - y then 1 else 0) =
      [0x81, 0x42, 0x24, 0x18, 0x18, 0x24, 0x42, 0x81] := by decide +kernel
theorem test_layout_mono1_t16 :  -- MO2
    patternBytes .mono1T16 (matrix 16 fun x y => if x = y ∨ y = 0 ∨ x = 15 then 1 else 0) =
      [0xFF, 0x40, 0x20, 0x10, 0x08, 0x04, 0x02, 0x01, 0, 0, 0, 0, 0, 0, 0, 0,
        0xFF, 1, 1, 1, 1, 1, 1, 1, 0x81, 0x41, 0x21, 0x11, 0x09, 0x05, 0x03, 0x01] := by decide +kernel
theorem test_layout_mono1_t16_rows :  -- MO3
    patternBytes .mono1T16Rows (matrix 16 fun x y => if x = y ∨ y = 0 ∨ x = 15 then 1 else 0) =
      [0xFF, 0xFF, 0x40, 1, 0x20, 1, 0x10, 1, 0x08, 1, 0x04, 1, 0x02, 1, 0x01, 1,
        0, 0x81, 0, 0x41, 0, 0x21, 0, 0x11, 0, 0x09, 0, 0x05, 0, 0x03, 0, 0x01] := by decide +kernel

/-! ## TILE: one pixel of slot 1 in a transparent frame, worked out by hand from R230 to R237 -/

/-- Pixel (3, 2) of an 8 by 8 frame: row 2, bit 4 of its plane byte. -/
theorem test_exec_tile_planar2 :
    after (exec (.tilePlanar2 0x100 8 8 0 0) (redPixel 19)) (fun t => (bytesAt 0x800 4 t, t.outPtr, t.colPtr)) =
      some ([0, 0, 0x10, 0], 0x810, 0xA00) := by decide +kernel
theorem test_exec_tile_inter2 :
    after (exec (.tileInter2 0x100 8 8 0 0) (redPixel 19)) (bytesAt 0x802 4) = some [0, 0, 0x10, 0] := by
  decide +kernel
theorem test_exec_tile_nib4h :
    after (exec (.tileNib4h 0x100 8 8 0 0) (redPixel 19)) (bytesAt 0x808 3) = some [0, 0x01, 0] := by decide +kernel
theorem test_exec_tile_nib4l :
    after (exec (.tileNib4l 0x100 8 8 0 0) (redPixel 19)) (bytesAt 0x808 3) = some [0, 0x10, 0] := by decide +kernel
theorem test_exec_tile_bp4 :
    after (exec (.tileBp4 0x100 8 8 0 0) (redPixel 19)) (fun t => (bytesAt 0x804 3 t, t.outPtr)) =
      some ([0x10, 0, 0], 0x820) := by decide +kernel
theorem test_exec_tile_lin8 :
    after (exec (.tileLin8 0x100 8 8 0 0) (redPixel 19)) (fun t => (bytesAt 0x812 3 t, t.outPtr)) =
      some ([0, 1, 0], 0x840) := by decide +kernel
theorem test_exec_tile_mono1 :
    after (exec (.tileMono1 0x100 8 8 0 0) (redPixel 19))
      (fun t => (bytesAt 0x801 3 t, bytesAt 0xA00 9 t, t.outPtr, t.colPtr)) =
      some ([0, 0x10, 0], List.replicate 8 0x50 ++ [0], 0x808, 0xA08) := by decide +kernel
/-- MO4: only (15, 0) set gives pat[16] = 01. -/
theorem test_exec_tile_mono1_t16 :
    after (exec (.tileMono1T16 0x100 16 16 0 0) (redPixel 15)) (fun t => (bytesAt 0x80F 3 t, t.outPtr, t.colPtr)) =
      some ([0, 1, 0], 0x820, 0xA10) := by decide +kernel
/-- MO5: only (15, 0) set gives pat[1] = 01. -/
theorem test_exec_tile_mono1_t16_rows :
    after (exec (.tileMono1T16Rows 0x100 16 16 0 0) (redPixel 15)) (bytesAt 0x800 3) = some [0, 1, 0] := by
  decide +kernel

/-- T2: a tile outside the frame is RANGE with W3 and W2. -/
theorem test_exec_tile_planar2_t2 :
    after (exec (.tilePlanar2 0x100 16 16 2 0) mapped) errorWords = some (.range, 0x00000002, 0x00100010) := by
  decide +kernel
/-- T14's rule on LUT slot 4 with two bits per pixel: RANGE (4, 4), nothing written. -/
theorem test_exec_tile_inter2_slot_too_wide :
    after (exec (.tileInter2 0x100 8 8 0 0) (poke 0x100 0xFF040404#32
        { setLut [1, 2, 3, 0x040404] running with outPtr := 0x800 })) errorWords = some (.range, 4, 4) := by
  decide +kernel
/-- T13: the pattern and colour outputs overlap. -/
theorem test_exec_tile_mono1_t13 :
    after (exec (.tileMono1 0x100 8 8 0 0) { setLut [] running with outPtr := 0x800, colPtr := 0x804 }) errorWords =
      some (.overlap, 0x800, 0x804) := by decide +kernel
/-- T15: the foreground colour is not in the fixed table. -/
theorem test_exec_tile_mono1_t16_no_entry :
    after (exec (.tileMono1T16 0x100 16 16 0 0) mapped) errorWords = some (.notInPalette, 1, 0x0000FF) := by
  decide +kernel
/-- T16: the foreground code is above 15. -/
theorem test_exec_tile_mono1_t16_rows_code :
    after (exec (.tileMono1T16Rows 0x100 16 16 0 0) (poke 0xC00 0x160000FF#32
        { mapped with fixBase := 0xC00, fixCount := 1 })) errorWords = some (.range, 0x16, 0x10) := by decide +kernel
/-- T20: every pixel misses (LUT_N = 0): slot 1, one warning. -/
theorem test_exec_tile_lin8_miss :
    after (exec (.tileLin8 0x100 8 8 0 0) (poke 0x100 0xFF0000FF#32
        { setLut [] running with outPtr := 0x800 })) (fun t => (bytesAt 0x800 2 t, t.warnCount, t.warnRgba)) =
      some ([1, 0], 1, 0xFF0000FF) := by decide +kernel

/-! ## FRAME: the pixel in the second tile of a 16 by 8 frame lands one tile further (R241) -/

/-- Pixel (8, 1), in tile (1, 0): row 1, leftmost. -/
theorem test_exec_frame_planar2 :
    after (exec (.framePlanar2 0x100 16 8) (redPixel 24)) (fun t => (bytesAt 0x810 3 t, t.outPtr)) =
      some ([0, 0x80, 0], 0x820) := by decide +kernel
theorem test_exec_frame_inter2 :
    after (exec (.frameInter2 0x100 16 8) (redPixel 24)) (bytesAt 0x810 4) = some [0, 0, 0x80, 0] := by decide +kernel
theorem test_exec_frame_nib4h :
    after (exec (.frameNib4h 0x100 16 8) (redPixel 24)) (fun t => (bytesAt 0x823 3 t, t.outPtr)) =
      some ([0, 0x10, 0], 0x840) := by decide +kernel
theorem test_exec_frame_nib4l :
    after (exec (.frameNib4l 0x100 16 8) (redPixel 24)) (bytesAt 0x823 3) = some [0, 0x01, 0] := by decide +kernel
theorem test_exec_frame_bp4 :
    after (exec (.frameBp4 0x100 16 8) (redPixel 24)) (bytesAt 0x820 4) = some [0, 0, 0x80, 0] := by decide +kernel
theorem test_exec_frame_lin8 :
    after (exec (.frameLin8 0x100 16 8) (redPixel 24)) (bytesAt 0x847 3) = some [0, 1, 0] := by decide +kernel
theorem test_exec_frame_mono1 :
    after (exec (.frameMono1 0x100 16 8) (redPixel 24))
      (fun t => (bytesAt 0x808 3 t, bytesAt 0xA00 17 t, t.outPtr, t.colPtr)) =
      some ([0, 0x80, 0], List.replicate 16 0x50 ++ [0], 0x810, 0xA10) := by decide +kernel
/-- Pixel (16, 8) of a 32 by 16 frame: tile (1, 0), bottom-left quadrant, its first row. -/
theorem test_exec_frame_mono1_t16 :
    after (exec (.frameMono1T16 0x100 32 16) { redPixel 272 with outPtr := 0x900 })
      (fun t => (bytesAt 0x927 3 t, t.outPtr, t.colPtr)) = some ([0, 0x80, 0], 0x940, 0xA20) := by decide +kernel
theorem test_exec_frame_mono1_t16_rows :
    after (exec (.frameMono1T16Rows 0x100 32 16) { redPixel 272 with outPtr := 0x900 }) (bytesAt 0x92F 3) =
      some [0, 0x80, 0] := by decide +kernel

/-- T6 and T8: DIMENSION comes before NO_MAP; both axes fail at the 16-bit limit. -/
theorem test_exec_frame_planar2_dimension :
    after (exec (.framePlanar2 0x100 20 16) running) errorWords = some (.dimension, 1, 0x18) ∧
      after (exec (.framePlanar2 0x100 65535 9) mapped) errorWords = some (.dimension, 3, 0x0010FFF8) := by
  decide +kernel
/-- T9: the tile edge is 16. -/
theorem test_exec_frame_mono1_t16_dimension :
    after (exec (.frameMono1T16 0x100 24 16) mapped) errorWords = some (.dimension, 1, 0x20) := by decide +kernel
/-- T4: NO_MAP. -/
theorem test_exec_frame_inter2_no_map :
    after (exec (.frameInter2 0x100 16 16) running) errorWords = some (.noMap, 0, 0) := by decide +kernel
/-- T12 on the small machine: the output runs into the frame. -/
theorem test_exec_frame_lin8_overlap :
    after (exec (.frameLin8 0x100 8 8) { mapped with outPtr := 0x1C0 }) errorWords = some (.overlap, 0x1C0, 0x100) := by
  decide +kernel

/-! ## PAL: vectors PA2, PA3, PA5 to PA9 and PA14, OUT_PTR = 0x800 -/

theorem test_exec_pal_sms_pa2 :
    after (exec (.palSms .s4) mapped) (fun t => (bytesAt 0x800 5 t, t.outPtr)) =
      some ([0, 0x03, 0x0C, 0x30, 0], 0x804) := by decide +kernel
theorem test_exec_pal_sms_pa3 :
    after (exec (.palSms .s4) { setLut [0x0000FF, 0x00FF00, 0xFF0000, 0xFFFFFF] running with outPtr := 0x800 })
      errorWords = some (.range, 5, 4) := by decide +kernel
theorem test_exec_pal_gen_pa5 :
    after (exec (.palGen .s4) mapped) (bytesAt 0x800 8) = some [0, 0, 0x0E, 0, 0xE0, 0, 0, 0x0E] := by decide +kernel
theorem test_exec_pal_gen_hf_pa6 :
    after (exec (.palGenHf .s4) mapped) (bytesAt 0x800 8) = some [0, 0, 0, 0x0E, 0, 0xE0, 0x0E, 0] := by decide +kernel
theorem test_exec_pal_bgr555_pa14 :
    after (exec (.palBgr555 .s4) mapped) (bytesAt 0x800 8) = some [0, 0, 0x1F, 0, 0xE0, 0x03, 0, 0x7C] := by
  decide +kernel
theorem test_exec_pal_bgr555_pa1 :
    after (exec (.palBgr555 .s16) (poke 0x81C 0x5A5A5A5A#32 mapped)) (fun t => (bytesAt 0x806 2 t, bytesAt 0x81C 4 t, t.outPtr)) =
      some ([0, 0x7C], [0, 0, 0, 0], 0x820) := by decide +kernel
theorem test_exec_pal_msx2_pa7 :
    after (exec (.palMsx2 .s4) mapped) (bytesAt 0x800 8) = some [0, 0, 0x70, 0, 0x07, 0, 0, 0x70] := by decide +kernel

/-- The fixed table of PA8 at 0xC00: red 0x16, green 0x2A, blue 0x12. -/
def palTable : State :=
  poke 0xC08 0x12FF0000#32 (poke 0xC04 0x2A00FF00#32 (poke 0xC00 0x160000FF#32
    { mapped with fixBase := 0xC00, fixCount := 3 }))

theorem test_exec_pal_fixed_pa8 :
    after (exec (.palFixed .s4) palTable) (bytesAt 0x800 4) = some [0, 0x16, 0x2A, 0x12] := by decide +kernel
theorem test_exec_pal_fixed_pa9 :
    after (exec (.palFixed .s4) { palTable with fixCount := 1 }) errorWords = some (.notInPalette, 2, 0x00FF00) := by
  decide +kernel

/-! ## Witnesses: states and operands that meet the hypotheses of the obligations, clause by clause, at boundary
values -/

theorem test_witness_DecodeOfEncode :
    (Instr.qsnap 1 0xFFFFFFFF).WellFormed ∧ (Instr.qexp 8 0).WellFormed ∧
      (Instr.tileMono1T16Rows 0xFFFFFFFF 0xFFFF 0xFFFF 0xFFFF 0xFFFF).WellFormed := by decide

theorem test_witness_EncodeOfDecode : decode ⟨0x00011140, 0, 0, 0⟩ = .ok (.palGenHf .s16) := by decide

/-- An unassigned opcode; each end of the two reserved fields. -/
theorem test_witness_UnknownOpcodeOrReservedBitIsIllegal :
    (0x00000541#32).toNat % 256 ∉
        [0x00, 0x01, 0x02, 0x10, 0x11, 0x12, 0x13, 0x20, 0x21, 0x22, 0x30, 0x31, 0x40] ∧
      (0x00004001#32).getLsbD 14 = true ∧ (0x00008001#32).getLsbD 15 = true ∧
      (0x00040030#32).getLsbD 18 = true ∧ (0x80000000#32).getLsbD 31 = true := by decide

theorem test_witness_FirstIllegalWordIsNamed :
    decode ⟨0x00000010, 1, 1, 1⟩ = .error .illegalW0 ∧ decode ⟨0x00000001, 1, 1, 1⟩ = .error .illegalW1 ∧
      decode ⟨0x00000310, 1, 1, 1⟩ = .error .illegalW2 ∧ decode ⟨0x00000002, 1, 1, 1⟩ = .error .illegalW3 := by decide

/-- The last descriptor of BUF. -/
theorem test_witness_StepRunsTheDecodedCommand :
    let s := poke 0xFF0 0x00000310#32 { running with cmdPtr := 0xFF0 }
    s.host = [] ∧ s.busy = true ∧ s.cmdPtr.toNat % 4 = 0 ∧ s.cmdPtr.toNat + 16 ≤ s.memSize ∧
      decodeBytes ((List.range 16).map fun k => s.buf.read (s.cmdPtr.toNat + k)) = .ok (.qsnap 3 0) := by
  decide +kernel

theorem test_witness_PlacedCommandRunsNext :
    (Instr.qsnap 3 5).WellFormed ∧ 16 ≤ ({ State.reset with memSize := 16, cmdPtr := 5 } : State).memSize := by decide

/-- CMD_PTR = 0xFF1 is misaligned; 0xFF4 is aligned and one word too far; 0xFF0 is the last that fits, with an
illegal descriptor for each word index. -/
theorem test_witness_FetchErrorsInOrder :
    running.host = [] ∧ running.busy = true ∧ (0xFF1#32).toNat % 4 ≠ 0 ∧
      (0xFF4#32).toNat % 4 = 0 ∧ running.memSize < (0xFF4#32).toNat + 16 ∧
      (0xFF0#32).toNat % 4 = 0 ∧ (0xFF0#32).toNat + 16 ≤ running.memSize ∧
      (poke 0xFF0 3 running).buf.readWord 0xFF0 = 3 ∧ decode ⟨3, 0, 0, 0⟩ = .error .illegalW0 ∧
      (poke 0xFF4 1 (poke 0xFF0 1 running)).buf.readWord 0xFF4 = 1 ∧ decode ⟨1, 1, 0, 0⟩ = .error .illegalW1 ∧
      (poke 0xFF8 1 (poke 0xFF0 1 running)).buf.readWord 0xFF8 = 1 ∧ decode ⟨1, 0, 1, 0⟩ = .error .illegalW2 ∧
      (poke 0xFFC 1 (poke 0xFF0 1 running)).buf.readWord 0xFFC = 1 ∧ decode ⟨1, 0, 0, 1⟩ = .error .illegalW3 := by
  decide +kernel

theorem test_witness_IdleStepChangesNothing : idle.host = [] ∧ idle.busy = false := by decide

theorem test_witness_EndStopsTheStream :
    (0x80000000#32).toNat % 256 = 0 ∧ (⟨0x80000000, 0, 0, 0⟩ : Descriptor) ≠ ⟨0, 0, 0, 0⟩ := by decide

theorem test_witness_NopOnlyAdvances :
    (0x00004001#32).toNat % 256 = 1 ∧ (⟨0x00004001, 0, 0, 0⟩ : Descriptor) ≠ ⟨1, 0, 0, 0⟩ := by decide

/-- The rounding corner of 95_test_vectors.md section 2.2.1, and both ends of v and b. -/
theorem test_witness_ToNBitRounds :
    (127 ≤ 255 ∧ 1 ≤ 1 ∧ 1 ≤ 8 ∧ toNBit 127 1 = 0 ∧ toNBit 128 1 = 1) ∧
      (255 ≤ 255 ∧ 1 ≤ 8 ∧ 8 ≤ 8 ∧ toNBit 255 8 = 255 ∧ toNBit 0 8 = 0) := by decide

/-- The table of 95_test_vectors.md section 2.2.1: expand at b = 1, 3 and 8. -/
theorem test_witness_ExpandRounds :
    (1 ≤ 1 ∧ 1 ≤ 8 ∧ 1 ≤ 2 ^ 1 - 1 ∧ expand 1 1 = 255) ∧ (4 ≤ 2 ^ 3 - 1 ∧ expand 4 3 = 146) ∧
      (255 ≤ 2 ^ 8 - 1 ∧ expand 255 8 = 255) := by decide

theorem test_witness_SnapIsIdempotent : (1 ≤ 1 ∧ 1 ≤ 8) ∧ 1 ≤ 8 ∧ 8 ≤ 8 := by decide

theorem test_witness_CodeOfExpandedCode :
    (1 ≤ 8 ∧ 8 ≤ 8 ∧ 255 ≤ 2 ^ 8 - 1 ∧ toNBit (expand 255 8) 8 = 255) ∧ toNBit (expand 0 1) 1 = 0 := by decide

theorem test_witness_QsnapCompletes : 1 ≤ (1#4).toNat ∧ (1#4).toNat ≤ 8 ∧ 1 ≤ (8#4).toNat ∧ (8#4).toNat ≤ 8 := by
  decide

theorem test_witness_QtonCompletes : 1 ≤ (1#4).toNat ∧ (1#4).toNat ≤ 8 ∧ 1 ≤ (8#4).toNat ∧ (8#4).toNat ≤ 8 := by
  decide

/-- Depth 3: the greatest codes fit, one more does not, and a QTON completes. -/
theorem test_witness_QexpChecksThenExpands :
    1 ≤ (3#4).toNat ∧ (3#4).toNat ≤ 8 ∧ (∀ k < 3, channel 0xFF070707 k ≤ 2 ^ (3#4).toNat - 1) ∧
      (∃ k < 3, 2 ^ (3#4).toNat - 1 < channel 0xFF080000 k) ∧
      (∃ t : State, exec (.qton 3 0xFF4080FF) running = .next t) ∧ (1#32 ≠ 0 ∨ 0#32 ≠ 0) :=
  ⟨by decide, by decide, by decide, by decide, ⟨_, rfl⟩, by decide⟩

/-- The table of QF1 (its third entry hidden by the first), a non-member, an empty table anywhere, a table that
ends at MEM_SIZE and one that ends a word later, and a reserved bit. -/
theorem test_witness_QfixLooksUpTheFixedTable :
    (threeEntries.fixCount.toNat ≤ 256 ∧ inRange threeEntries ⟨threeEntries.fixBase, 4 * 3⟩ ∧
      (threeEntries.buf.readWord 0x800).toNat % 2 ^ 24 = (0xFF0000FF#32).toNat % 2 ^ 24 ∧
      ∀ j < 3, (threeEntries.buf.readWord (0x800 + 4 * j)).toNat % 2 ^ 24 ≠ (0xFFFF0000#32).toNat % 2 ^ 24) ∧
      inRange running ⟨0xFFFFFF00, 4 * 0⟩ ∧ inRange running ⟨0xFF4, 4 * 3⟩ ∧ ¬ inRange running ⟨0xFF8, 4 * 3⟩ ∧
      (0x00004013#32).toNat % 256 = 0x13 ∧ (0x00004013#32 ≠ 0x13#32) := by decide +kernel

/-- Alpha 127 and 128; slot 1 and slot LUT_N; a miss with colours and with none. -/
theorem test_witness_ResolveGivesTheSlot :
    channel 0x7F0000FF 3 < 128 ∧ 128 ≤ channel 0x800000FF 3 ∧
      (lutSlot mapped 1).toNat = (0x800000FF#32).toNat % 2 ^ 24 ∧
      (3 ≤ mapped.lutN.toNat ∧ (lutSlot mapped 3).toNat = (0x80FF0000#32).toNat % 2 ^ 24 ∧
        ∀ j < 3, 1 ≤ j → (lutSlot mapped j).toNat ≠ (0x80FF0000#32).toNat % 2 ^ 24) ∧
      (∀ j ≤ 3, 1 ≤ j → (lutSlot mapped j).toNat ≠ (0xFF563412#32).toNat % 2 ^ 24) ∧ mapped.lutN.toNat = 3 ∧
      running.lutN.toNat = 0 := by decide +kernel

/-- M1: three colours at a limit of three; M4b: no entry at all. -/
theorem test_witness_MapbuildCompletes :
    (inRange (limitedM1 3) ⟨0x800, 4 * (4#32).toNat⟩ ∧ (listedColors (limitedM1 3) 0x800 4).Nodup ∧
      (listedColors (limitedM1 3) 0x800 4).length ≤
        (if (limitedM1 3).unlimited then 255 else (limitedM1 3).maxLimit.toNat)) ∧
      inRange running ⟨0xFFFFFFF0, 4 * (0#32).toNat⟩ ∧ (listedColors running 0xFFFFFFF0 0).length = 0 := by
  decide +kernel

/-- BOUNDS one word past the end; M3's repeat at index 2; three colours at a limit of two. -/
theorem test_witness_MapbuildErrorsInOrder :
    ¬ inRange running ⟨0xFF0, 4 * (5#32).toNat⟩ ∧
      (inRange listM3 ⟨0x800, 4 * (3#32).toNat⟩ ∧ 2 < (3#32).toNat ∧
        128 ≤ channel (listM3.buf.readWord (0x800 + 4 * 2)) 3 ∧ (listedColors listM3 0x800 2).Nodup ∧
        (listM3.buf.readWord (0x800 + 4 * 2)).setWidth 24 ∈ listedColors listM3 0x800 2) ∧
      (inRange (limitedM1 2) ⟨0x800, 4 * (4#32).toNat⟩ ∧ (listedColors (limitedM1 2) 0x800 4).Nodup ∧
        (if (limitedM1 2).unlimited then 255 else (limitedM1 2).maxLimit.toNat) <
          (listedColors (limitedM1 2) 0x800 4).length) := by decide +kernel

/-- k = M = 3 and k = M + 1 with M = 2. -/
theorem test_witness_ColorLimitBoundary :
    ((limitedM1 3).unlimited = false ∧ inRange (limitedM1 3) ⟨0x800, 4 * (4#32).toNat⟩ ∧
      (listedColors (limitedM1 3) 0x800 4).Nodup ∧
      (listedColors (limitedM1 3) 0x800 4).length = (limitedM1 3).maxLimit.toNat) ∧
      (limitedM1 2).unlimited = false ∧ inRange (limitedM1 2) ⟨0x800, 4 * (4#32).toNat⟩ ∧
      (listedColors (limitedM1 2) 0x800 4).Nodup ∧
      (listedColors (limitedM1 2) 0x800 4).length = (limitedM1 2).maxLimit.toNat + 1 := by decide +kernel

theorem test_witness_MaplookCompletes :
    running.lutValid = false ∧ mapped.lutValid = true ∧ channel 0x7F0000FF 3 < 128 ∧
      (128 ≤ channel 0x80FF0000 3 ∧ 3 ≤ mapped.lutN.toNat ∧
        (lutSlot mapped 3).toNat = (0x80FF0000#32).toNat % 2 ^ 24 ∧
        ∀ j < 3, 1 ≤ j → (lutSlot mapped j).toNat ≠ (0x80FF0000#32).toNat % 2 ^ 24) ∧
      128 ≤ channel 0xFF563412 3 ∧ mapped.lutN.toNat = 3 ∧
      ∀ j ≤ 3, 1 ≤ j → (lutSlot mapped j).toNat ≠ (0xFF563412#32).toNat % 2 ^ 24 := by decide +kernel

theorem test_witness_PlanarLayouts : IsSquare (matrix 8 fun x y => (x + 3 * y) % 16) 8 := by decide +kernel

theorem test_witness_NibbleLayouts :
    IsSquare (matrix 8 fun x y => (x + 3 * y) % 16) 8 ∧
      ∀ row ∈ matrix 8 (fun x y => (x + 3 * y) % 16), ∀ slot ∈ row, slot.toNat < 16 := by decide +kernel

theorem test_witness_LinearLayout : IsSquare (matrix 8 fun x y => 8 * y + x) 8 := by decide +kernel

theorem test_witness_MonochromeLayouts :
    IsSquare (matrix 8 fun x y => x * y) 8 ∧ IsSquare (matrix 16 fun x y => x * y) 16 ∧ (15#8).toNat ≤ 15 := by
  decide +kernel

theorem test_witness_EncodedTileLengths :
    encodeTile .mono1 0x100 8 0 0 (redPixel 19) =
      .ok ⟨[0, 0, 0x10, 0, 0, 0, 0, 0], List.replicate 8 0x50, []⟩ := by decide +kernel

theorem test_witness_TileCompletes_planar2 : TileReady .planar2 0x100 8 8 0 0 (redPixel 19) 0 :=
  ⟨by decide +kernel, by decide +kernel, by decide +kernel, by decide +kernel, by decide +kernel, by decide +kernel⟩

theorem test_witness_TileCompletes_mono1 : TileReady .mono1 0x100 8 8 0 0 (redPixel 19) 5 :=
  ⟨by decide +kernel, by decide +kernel, by decide +kernel, by decide +kernel, by decide +kernel, by decide +kernel⟩

/-- RANGE one tile too far along each axis; no mapping; each range just past the end of BUF; each overlap. -/
theorem test_witness_TileErrorsInOrder :
    16 < (2 + 1) * tileEdge .planar2 ∧ (1 + 1) * tileEdge .planar2 ≤ 16 ∧
      (running.lutValid = false ∧ mapped.lutValid = true) ∧
      ¬ inRange mapped ⟨0xF01, 4 * 8 * 8⟩ ∧
      (inRange mapped ⟨0x100, 4 * 8 * 8⟩ ∧ ¬ inRange mapped ⟨0xFF1, 1 * patternLength .planar2⟩) ∧
      (inRange mapped ⟨0x800, 1 * patternLength .mono1⟩ ∧ ¬ inRange mapped ⟨0xFF9, 1 * colorLength .mono1⟩) ∧
      ((1 ≤ mapped.lutN.toNat ∧ inRange mapped ⟨0xA00, 1 * colorLength .mono1⟩) ∧ ¬ inRange mapped ⟨0xFFD, 4 * 1⟩) ∧
      overlaps ⟨0x1FF, 16⟩ ⟨0x100, 4 * 8 * 8⟩ ∧ overlaps ⟨0xC00, 8⟩ ⟨0xC07, 4⟩ ∧ overlaps ⟨0x800, 8⟩ ⟨0x807, 8⟩ ∧
      overlaps ⟨0xF9, 8⟩ ⟨0x100, 4 * 8 * 8⟩ ∧ ¬ overlaps ⟨0x200, 16⟩ ⟨0x100, 4 * 8 * 8⟩ := by decide +kernel

/-- The list splits of the BOUNDS and OVERLAP clauses, with the colour output as the failing range and the
pair of outputs as the overlapping one. -/
theorem test_witness_TileErrorsInOrder_splits :
    (let s := { mapped with colPtr := 0xFF9 }
      ∃ pre post, tileRangesInOrder .mono1 0x100 8 8 1 s = pre ++ ⟨0xFF9, 8⟩ :: post ∧
        (∀ q ∈ pre, inRange s q) ∧ ¬ inRange s ⟨0xFF9, 8⟩) ∧
      let s := { mapped with colPtr := 0x807 }
      (∀ q ∈ tileRangesInOrder .mono1 0x100 8 8 1 s, inRange s q) ∧
        ∃ pre post, tilePairsInOrder .mono1 0x100 8 8 1 s = pre ++ (⟨0x800, 8⟩, ⟨0x807, 8⟩) :: post ∧
          (∀ q ∈ pre, ¬ overlaps q.1 q.2) ∧ overlaps ⟨0x800, 8⟩ ⟨0x807, 8⟩ :=
  ⟨⟨[⟨0x100, 256⟩, ⟨0x800, 8⟩], [⟨0, 0⟩], by decide +kernel, by decide +kernel, by decide +kernel⟩,
    by decide +kernel, [(⟨0x800, 8⟩, ⟨0x100, 256⟩), (⟨0x800, 8⟩, ⟨0, 0⟩)],
    [(⟨0x807, 8⟩, ⟨0x100, 256⟩), (⟨0x807, 8⟩, ⟨0, 0⟩)], by decide +kernel, by decide +kernel, by decide +kernel⟩

/-- A mapping whose slot 4 does not fit two bits, in a frame whose pixel 1 has that slot. -/
def wideSlot : State := poke 0x104 0xFF040404#32 { setLut [1, 2, 3, 0x040404] running with outPtr := 0x800 }

theorem test_witness_TileContentErrors_slot :
    (0 + 1) * tileEdge .inter2 ≤ (8#16).toNat ∧ wideSlot.lutValid = true ∧
      TileRangesInside .inter2 0x100 8 8 1 wideSlot ∧ TileRangesDisjoint .inter2 0x100 8 8 1 wideSlot ∧
      isMono .inter2 = false ∧
      (tileSlots .inter2 0x100 8 0 0 wideSlot).flatten = [0] ++ 4 :: List.replicate 62 0 ∧
      (∀ q ∈ ([0] : List Byte), q.toNat < 2 ^ bitsPerPixel .inter2) ∧ 2 ^ bitsPerPixel .inter2 ≤ (4#8).toNat :=
  ⟨by decide +kernel, by decide +kernel, by decide +kernel, by decide +kernel, by decide +kernel, by decide +kernel,
    by decide +kernel, by decide +kernel⟩

/-- MONO1 with colours: no entry at all, and a first entry whose code is 16. -/
theorem test_witness_TileContentErrors_foreground :
    (TileRangesInside .mono1 0x100 8 8 1 mapped ∧ 1 ≤ mapped.lutN.toNat ∧ mapped.fixCount.toNat = 0) ∧
      let s := poke 0xC00 0x100000FF#32 { mapped with fixBase := 0xC00, fixCount := 1 }
      inRange s ⟨s.fixBase, 4 * s.fixCount.toNat⟩ ∧ isMono .mono1 = true ∧ 0 < s.fixCount.toNat ∧
        (fixEntry s 0).toNat % 2 ^ 24 = (lutSlot s 1).toNat ∧ 15 < channel (fixEntry s 0) 3 := by
  refine ⟨⟨by decide +kernel, by decide +kernel, by decide +kernel⟩, by decide +kernel⟩

theorem test_witness_FrameCompletes_planar2 : FrameReady .planar2 0x100 16 8 (redPixel 24) 0 :=
  ⟨by decide +kernel, by decide +kernel, by decide +kernel, by decide +kernel,
    fun ty hy tx hx => by
      have h : ∀ tx < 2, TileSlotsFit .planar2 0x100 16 tx 0 (redPixel 24) := by decide +kernel
      have : ty = 0 := by simp [tileEdge] at hy; omega
      exact this ▸ h tx (by simpa [tileEdge] using hx),
    by decide +kernel⟩

theorem test_witness_FrameCompletes_mono1 : FrameReady .mono1 0x100 16 8 (redPixel 24) 5 :=
  ⟨by decide +kernel, by decide +kernel, by decide +kernel, by decide +kernel,
    fun _ _ _ _ h => absurd h (by decide), by decide +kernel⟩

/-- The two functions of the statement for T = 8, and the widths of T5, T7 and T8. -/
theorem test_witness_FrameDimensionErrors :
    ∃ (fails : Nat → Bool) (sug : Nat → Nat),
      (∀ v, fails v = true ↔ v = 0 ∨ ¬ tileEdge .planar2 ∣ v) ∧ (∀ v, fails v = false → sug v = 0) ∧
      (fails 0 = true → sug 0 = tileEdge .planar2) ∧
      (∀ v, v ≠ 0 → fails v = true →
        tileEdge .planar2 ∣ sug v ∧
          (v / tileEdge .planar2 * tileEdge .planar2 + tileEdge .planar2 ≤ 65535 →
            v < sug v ∧ sug v < v + tileEdge .planar2) ∧
          (65535 < v / tileEdge .planar2 * tileEdge .planar2 + tileEdge .planar2 →
            sug v ≤ v ∧ v < sug v + tileEdge .planar2)) ∧
      fails 20 = true ∧ sug 20 = 24 ∧ fails 0 = true ∧ sug 65535 = 65528 ∧ fails 16 = false := by
  refine ⟨fun v => decide (v = 0 ∨ v % 8 ≠ 0),
    fun v => if v = 0 then 8 else if v % 8 = 0 then 0 else if v / 8 * 8 + 8 ≤ 65535 then v / 8 * 8 + 8 else v / 8 * 8,
    fun v => ?_, fun v h => ?_, fun _ => rfl, fun v h0 h => ?_, by decide, by decide, by decide, by decide, by decide⟩
  · simp only [tileEdge, decide_eq_true_eq]; omega
  · simp only [decide_eq_false_iff_not, not_or] at h; simp only; rw [if_neg h.1, if_pos (by omega)]
  · simp only [tileEdge, decide_eq_true_eq] at h ⊢
    rw [if_neg h0, if_neg (by omega)]
    split <;> omega

/-- The FRAME errors after the dimension check: the sizes; the splits are those of TILE with n = 2 tiles. -/
theorem test_witness_FrameErrorsInOrder :
    (0 < (16#16).toNat ∧ (16#16).toNat % tileEdge .inter2 = 0 ∧ 0 < (8#16).toNat ∧ (8#16).toNat % tileEdge .inter2 = 0) ∧
      running.lutValid = false ∧
      (let s := { mapped with outPtr := 0xFE1 }
        ∃ pre post, tileRangesInOrder .inter2 0x100 16 8 2 s = pre ++ ⟨0xFE1, 32⟩ :: post ∧
          (∀ q ∈ pre, inRange s q) ∧ ¬ inRange s ⟨0xFE1, 32⟩) ∧
      let s := { mapped with outPtr := 0x2FF }
      (∀ q ∈ tileRangesInOrder .inter2 0x100 16 8 2 s, inRange s q) ∧
        ∃ post, tilePairsInOrder .inter2 0x100 16 8 2 s = [] ++ (⟨0x2FF, 32⟩, ⟨0x100, 512⟩) :: post ∧
          overlaps ⟨0x2FF, 32⟩ ⟨0x100, 512⟩ :=
  ⟨by decide, by decide, ⟨[⟨0x100, 512⟩], [⟨0xA00, 0⟩], by decide +kernel, by decide +kernel, by decide +kernel⟩,
    by decide +kernel, [(⟨0x2FF, 32⟩, ⟨0xA00, 0⟩), (⟨0xA00, 0⟩, ⟨0x100, 512⟩)], by decide +kernel, by decide +kernel⟩

theorem test_witness_FrameErrorsInOrder_content :
    (wideSlot.lutValid = true ∧ (∀ q ∈ tileRangesInOrder .inter2 0x100 8 8 1 wideSlot, inRange wideSlot q) ∧
      (∀ q ∈ tilePairsInOrder .inter2 0x100 8 8 1 wideSlot, ¬ overlaps q.1 q.2) ∧
      ((rasterTiles .inter2 8 8).flatMap fun c => (tileSlots .inter2 0x100 8 c.1 c.2 wideSlot).flatten) =
        [0] ++ 4 :: List.replicate 62 0) ∧
      let s := poke 0xC00 0x100000FF#32 { mapped with fixBase := 0xC00, fixCount := 1 }
      (∀ q ∈ tileRangesInOrder .mono1 0x100 8 8 1 s, inRange s q) ∧
        (∀ q ∈ tilePairsInOrder .mono1 0x100 8 8 1 s, ¬ overlaps q.1 q.2) ∧ 1 ≤ s.lutN.toNat ∧
        (fixEntry s 0).toNat % 2 ^ 24 = (lutSlot s 1).toNat ∧ 15 < channel (fixEntry s 0) 3 := by
  refine ⟨⟨by decide +kernel, by decide +kernel, by decide +kernel, by decide +kernel⟩, by decide +kernel⟩

/-- A LUT made by `setLut` reads 0 above its colours. -/
theorem lut_cleared (colors : List Rgb) (s : State) (k : Nat) (h : colors.length ≤ k) :
    (setLut colors s).lut.toList.getD k 0#24 = 0#24 := by
  simp only [setLut, List.getD_eq_getElem?_getD]
  by_cases hk : k < 255
  · simp [hk, h]
  · rw [List.getElem?_eq_none (by simpa using hk)]; rfl

/-- The machine of the FRAME and TILE tests is well formed, and its FRAME completes. -/
theorem test_witness_FrameIsItsTilesInRasterOrder :
    Inv (redPixel 24) ∧ ∃ t : State, exec (.framePlanar2 0x100 16 8) (redPixel 24) = .next t ∧
      t.cmdPtr = (redPixel 24).cmdPtr + 16#32 :=
  ⟨⟨⟨by decide +kernel, by decide +kernel, by decide, by decide⟩, ⟨by decide, by decide, by decide, by decide⟩,
      ⟨by decide +kernel, fun k h => lut_cleared _ running k h, by decide⟩, ⟨by decide, by decide⟩⟩,
    next_of_after (f := fun t => t.cmdPtr) (by decide +kernel)⟩

theorem test_witness_PaletteSlotBytes : PalFormat.genHf ≠ .fixed := by decide

/-- PA14's fit (LUT_N + 1 = S), with the output ending at MEM_SIZE; PA8's table. -/
theorem test_witness_PalCompletes :
    PalReady .bgr555 .s4 { mapped with outPtr := 0xFF8 } ∧ PalReady .fixed .s4 palTable :=
  ⟨⟨by decide +kernel, by decide +kernel, by decide +kernel, fun h => absurd h (by decide)⟩,
    by decide +kernel, by decide +kernel, by decide +kernel, fun _ => by decide +kernel⟩

/-- One clause each: no mapping; one colour too many; the output one byte past the end; the table past the end;
an overlap in its last byte (PA10); slot 2 missing (PA9). -/
theorem test_witness_PalErrorsInOrder :
    running.lutValid = false ∧ mapped.lutValid = true ∧
      slotCount .s4 < (setLut [1, 2, 3, 4] running).lutN.toNat + 1 ∧ mapped.lutN.toNat + 1 ≤ slotCount .s4 ∧
      ¬ inRange mapped ⟨0xFF9, slotCount .s4 * bytesPerSlot .gen⟩ ∧
      (inRange palTable ⟨0x800, slotCount .s4 * bytesPerSlot .fixed⟩ ∧ ¬ inRange palTable ⟨0xFF5, 4 * 3⟩) ∧
      (inRange palTable ⟨palTable.fixBase, 4 * palTable.fixCount.toNat⟩ ∧ overlaps ⟨0xC0B, 4⟩ ⟨0xC00, 4 * 3⟩) ∧
      ¬ overlaps ⟨0x800, 4⟩ ⟨0xC00, 4 * 1⟩ ∧
      (2 ≤ palTable.lutN.toNat ∧ (fixEntry palTable 0).toNat % 2 ^ 24 = (lutSlot palTable 1).toNat ∧
        (fixEntry palTable 0).toNat % 2 ^ 24 ≠ (lutSlot palTable 2).toNat) := by decide +kernel

theorem test_witness_NoCommandWritesHostRegisters :
    (∃ t : State, exec .nop running = .next t) ∧ Instr.nop ≠ .endStream ∧ ({ running with error := true } : State).error = true :=
  ⟨⟨_, rfl⟩, by decide, rfl⟩

theorem test_witness_BufIsWrittenOnlyAtThePointers :
    Inv (redPixel 24) ∧ (∃ t : State, exec .nop (redPixel 24) = .next t) ∧
      (∀ L fb w h tx ty, Instr.nop ≠ tileInstr L fb w h tx ty) ∧ (∀ L fb w h, Instr.nop ≠ frameInstr L fb w h) ∧
      ∀ f n, Instr.nop ≠ palInstr f n :=
  ⟨test_witness_FrameIsItsTilesInRasterOrder.1, ⟨_, rfl⟩, fun L _ _ _ _ _ => by cases L <;> exact nofun,
    fun L _ _ _ => by cases L <;> exact nofun, fun f _ => by cases f <;> exact nofun⟩

/-- END, and an abort, stop a busy machine. -/
theorem test_witness_OnlyEndStopsWithoutAnError :
    (∃ t : State, exec .endStream running = .next t ∧ running.busy = true ∧ t.busy = false) ∧
      ∃ t : State, exec (.maplook 0) running = .next t ∧ running.busy = true ∧ t.busy = false :=
  ⟨⟨_, rfl, rfl, rfl⟩, ⟨_, rfl, rfl, rfl⟩⟩

theorem test_witness_CtrlWriteActsInOrder :
    (0xF#32).getLsbD 3 = true ∧ (0x7#32).getLsbD 3 = false ∧ running.busy = true ∧ idle.busy = false ∧
      (0x6#32).getLsbD 0 = false ∧ (0x7#32).getLsbD 0 = true := by decide

/-- Busy and idle; the reserved index next to the last register, and the first of the LUT window. -/
theorem test_witness_HostWritesOfOtherRegisters :
    running.busy = true ∧ (0x006 : Nat) ≠ 0x001 ∧ idle.busy = false ∧ (0x009 : Nat) ≤ 0x009 ∧ 0x009 ≤ 0x100 := by decide

/-- The three ways to a state after reset. -/
theorem test_witness_ResetValues :
    (∃ t : State, step { running with host := [.powerOn [(3, 7)]] } = .next t) ∧ (0x8#32).getLsbD 3 = true ∧
      ∃ t : State, step { running with host := [.writeReg 0x001 0x8#32] } = .next t :=
  ⟨⟨_, rfl⟩, by decide, ⟨_, rfl⟩⟩

/-- A load that ends at MEM_SIZE, one while busy, one a byte too long. -/
theorem test_witness_HostLoadsBufOnlyWhileIdle :
    (idle.busy = false ∧ 0xFFE + ([1, 2] : List Byte).length ≤ idle.memSize) ∧ running.busy = true ∧
      idle.memSize < 0xFFF + ([1, 2] : List Byte).length := by decide

/-- The last byte of BUF, idle and busy, and the first address past it. -/
theorem test_witness_HostReadsOfBufAreDrawnFromBoundaries :
    idle.host = [] ∧ 4095 < idle.memSize ∧ idle.busy = false ∧ running.host = [] ∧ 4095 < running.memSize ∧
      running.busy = true ∧ (∃ t : State, step running = .next t) ∧ running.memSize ≤ 4096 :=
  ⟨rfl, by decide, rfl, rfl, by decide, rfl, ⟨_, rfl⟩, by decide⟩

/-- An idle machine with a NOP at CMD_PTR whose host writes GO: idle at boundary 0, busy at boundaries 1 and 2. -/
def goWithNop : State := { poke 0 0x00000001#32 idle with host := [.writeReg 0x001 0x1#32] }

theorem test_witness_RegisterReads :
    (∃ t : State, step (boundary 0 goWithNop) = .next t) ∧ (boundary 0 goWithNop).busy = false ∧
      (boundary 1 goWithNop).busy = true ∧ (boundary 2 goWithNop).busy = true :=
  ⟨⟨_, rfl⟩, by decide +kernel, by decide +kernel, by decide +kernel⟩

/-- At boundary 2 the host may still read the CMD_PTR that GO left, and never the busy bit of before GO (R330). -/
theorem test_mayReadReg_since_go :
    MayReadReg goWithNop 2 0x003 0#32 ∧ MayReadReg goWithNop 2 0x003 16#32 ∧ ¬ BusySince goWithNop 0 2 := by
  have h0 : (boundary 0 goWithNop).busy = false := rfl
  have h1 : (boundary 1 goWithNop).busy = true := by decide +kernel
  have h2 : (boundary 2 goWithNop).busy = true := by decide +kernel
  refine ⟨⟨1, by decide, .inr fun j hj hn => ?_, by decide +kernel⟩, ⟨2, by decide, .inl rfl, by decide +kernel⟩,
    fun h => Bool.false_ne_true (h0.symm.trans (h 0 (by decide) (by decide)))⟩
  obtain rfl | rfl : j = 1 ∨ j = 2 := by omega
  · exact h1
  · exact h2

/-- The invariant of a running machine with a mapping, and a step of it. -/
theorem test_witness_StepKeepsMemoryOk : MemoryOk running ∧ ∃ t : State, step running = .next t :=
  ⟨⟨by decide, by decide, by decide, by decide⟩, ⟨_, rfl⟩⟩

theorem test_witness_StepKeepsStatusOk : StatusOk running ∧ ∃ t : State, step running = .next t :=
  ⟨⟨by decide, by decide, by decide, by decide⟩, ⟨_, rfl⟩⟩

theorem test_witness_StepKeepsLutOk : LutOk mapped ∧ ∃ t : State, step mapped = .next t :=
  ⟨⟨by decide +kernel, fun k h => lut_cleared _ running k h, by decide⟩, ⟨_, rfl⟩⟩

theorem test_witness_StepKeepsRegistersOk :
    RegistersOk { running with fixCount := 256, warnCount := 1, warnRgba := 5 } ∧
      ∃ t : State, step running = .next t := ⟨⟨by decide, by decide⟩, ⟨_, rfl⟩⟩

/-- A stream of NOPs in a BUF of the least size: one fetch, then the end of BUF. -/
theorem test_witness_EveryStreamTerminates :
    MemoryOk { running with memSize := 16 } ∧ running.host = [] :=
  ⟨⟨by decide, by decide, by decide, by decide⟩, rfl⟩

end Sys2Proof.Tests
end

section
/-! PROOFS. What a command can do, whatever the instruction, and what a host's register write can do: the layer
every invariant below is derived from. -/

namespace Sys2Proof

/-- A proof about every command, the nine TILE, the nine FRAME and the six PAL constructors as one family each. -/
theorem Instr.familyCases {P : Instr → Prop} (endStream : P .endStream) (nop : P .nop)
    (setout : ∀ out col, P (.setout out col)) (qsnap : ∀ b c, P (.qsnap b c)) (qton : ∀ b c, P (.qton b c))
    (qexp : ∀ b codes, P (.qexp b codes)) (qfix : ∀ c, P (.qfix c)) (mapclr : P .mapclr)
    (mapbuild : ∀ cl n, P (.mapbuild cl n)) (maplook : ∀ px, P (.maplook px))
    (tile : ∀ L fb w h tx ty, P (tileInstr L fb w h tx ty)) (frame : ∀ L fb w h, P (frameInstr L fb w h))
    (pal : ∀ f n, P (palInstr f n)) (i : Instr) : P i :=
  match i with
  | .endStream => endStream
  | .nop => nop
  | .setout out col => setout out col
  | .qsnap b c => qsnap b c
  | .qton b c => qton b c
  | .qexp b codes => qexp b codes
  | .qfix c => qfix c
  | .mapclr => mapclr
  | .mapbuild cl n => mapbuild cl n
  | .maplook px => maplook px
  | .tilePlanar2 fb w h tx ty => tile .planar2 fb w h tx ty
  | .tileInter2 fb w h tx ty => tile .inter2 fb w h tx ty
  | .tileNib4h fb w h tx ty => tile .nib4h fb w h tx ty
  | .tileNib4l fb w h tx ty => tile .nib4l fb w h tx ty
  | .tileBp4 fb w h tx ty => tile .bp4 fb w h tx ty
  | .tileLin8 fb w h tx ty => tile .lin8 fb w h tx ty
  | .tileMono1 fb w h tx ty => tile .mono1 fb w h tx ty
  | .tileMono1T16 fb w h tx ty => tile .mono1T16 fb w h tx ty
  | .tileMono1T16Rows fb w h tx ty => tile .mono1T16Rows fb w h tx ty
  | .framePlanar2 fb w h => frame .planar2 fb w h
  | .frameInter2 fb w h => frame .inter2 fb w h
  | .frameNib4h fb w h => frame .nib4h fb w h
  | .frameNib4l fb w h => frame .nib4l fb w h
  | .frameBp4 fb w h => frame .bp4 fb w h
  | .frameLin8 fb w h => frame .lin8 fb w h
  | .frameMono1 fb w h => frame .mono1 fb w h
  | .frameMono1T16 fb w h => frame .mono1T16 fb w h
  | .frameMono1T16Rows fb w h => frame .mono1T16Rows fb w h
  | .palSms n => pal .sms n
  | .palGen n => pal .gen n
  | .palBgr555 n => pal .bgr555 n
  | .palMsx2 n => pal .msx2 n
  | .palFixed n => pal .fixed n
  | .palGenHf n => pal .genHf n

end Sys2Proof

namespace Sys2Proof.Machine

/-! ## What a command can do -/

/-- What the body of a command can leave when it completes, before the common advance: one constructor per state
update a command ends with. `result`, which five commands share, names no instruction. `exec_cases` ties it to
`exec`. -/
inductive Completes : Instr → State → State → Prop where
  | finish (s : State) : Completes .endStream s (finishStream s)
  | keep (s : State) : Completes .nop s s
  | pointers (out col : Word) (s : State) : Completes (.setout out col) s (setPointers out col s)
  | result (i : Instr) (v : Word) (s : State) : Completes i s (setResult v s)
  | warned (px v : Word) (s : State) : Completes (.maplook px) s (setResult v (warn px s))
  | clear (s : State) : Completes .mapclr s (clearLut s)
  | build (cl n : Word) (colors : List Rgb) (s : State) (distinct : colors.Nodup)
      (fits : colors.length ≤ maxEff s) : Completes (.mapbuild cl n) s (setLut colors s)
  | tile (L : TileLayout) (fb : Word) (w h tx ty : Half) (e : Encoded) (s : State) :
      Completes (tileInstr L fb w h tx ty) s (emit e s)
  | frame (L : TileLayout) (fb : Word) (w h : Half) (e : Encoded) (s : State) :
      Completes (frameInstr L fb w h) s (emit e s)
  | pal (f : PalFormat) (n : SlotCount) (bytes : List Byte) (s : State) :
      Completes (palInstr f n) s (putOut bytes s)

/-- A command whose body only completes as `Completes` allows, and only raises named errors, does one or the
other. -/
theorem complete_cases_of_body {i : Instr} {s : State} {r : Except Err State}
    (hok : ∀ u, r = .ok u → Completes i s u) (herr : ∀ e, r = .error e → e.code ≠ .none) :
    (∃ u, Completes i s u ∧ complete s r = .next (advance u)) ∨
      ∃ e, e.code ≠ .none ∧ complete s r = .next (abort e s) := by
  obtain ⟨u, hu, hc⟩ | ⟨e, he, hc⟩ := complete_cases s r
  · exact .inl ⟨u, hok u hu, hc⟩
  · exact .inr ⟨e, herr e he, hc⟩

/-- Every command completes in one of the ways of `Completes` and advances, or aborts with an error code
(60_exceptions.md R304). -/
theorem exec_cases (i : Instr) (s : State) :
    (∃ u, Completes i s u ∧ exec i s = .next (advance u)) ∨
      ∃ e, e.code ≠ .none ∧ exec i s = .next (abort e s) := by
  induction i using Instr.familyCases with
  | endStream => exact .inl ⟨_, .finish s, rfl⟩
  | nop => exact .inl ⟨_, .keep s, rfl⟩
  | setout out col => exact .inl ⟨_, .pointers out col s, rfl⟩
  | qsnap b c => exact .inl ⟨_, .result _ _ s, rfl⟩
  | qton b c => exact .inl ⟨_, .result _ _ s, rfl⟩
  | qexp b codes =>
    refine complete_cases_of_body (fun u hu => ?_) fun e he => ?_
    · rw [(expandBody_eq_ok.1 hu).2]
      exact .result _ _ s
    · simp [(expandBody_eq_error.1 he).2]
  | qfix c =>
    refine complete_cases_of_body (fun u hu => ?_) fun e he => ?_
    · rw [(fixBody_eq_ok.1 hu).2]
      exact .result _ _ s
    · simp [(fixBody_eq_error.1 he).2]
  | mapclr => exact .inl ⟨_, .clear s, rfl⟩
  | mapbuild cl n =>
    refine complete_cases_of_body (fun u hu => ?_) fun e he => ?_
    · obtain ⟨-, colors, hcollect, hfits, rfl⟩ := buildBody_eq_ok.1 hu
      exact .build cl n colors s (collectColors_nodup hcollect .nil) hfits
    · obtain hc | hc | hc := buildBody_eq_error he <;> simp [hc]
  | maplook px =>
    refine complete_cases_of_body (fun u hu => ?_) fun e he => ?_
    · rw [(lookBody_eq_ok.1 hu).2]
      split
      · exact .warned px _ s
      · exact .result _ _ s
    · simp [(lookBody_eq_error.1 he).2]
  | tile L fb w h tx ty =>
    rw [exec_tileInstr]
    refine complete_cases_of_body (fun u hu => ?_) fun e he => tileBody_eq_error he
    obtain ⟨-, -, -, e, -, rfl⟩ := tileBody_eq_ok.1 hu
    exact .tile L fb w h tx ty e s
  | frame L fb w h =>
    rw [exec_frameInstr]
    refine complete_cases_of_body (fun u hu => ?_) fun e he => frameBody_eq_error he
    obtain ⟨-, -, -, e, -, rfl⟩ := frameBody_eq_ok.1 hu
    exact .frame L fb w h e s
  | pal f n =>
    rw [exec_palInstr]
    refine complete_cases_of_body (fun u hu => ?_) fun e he => palBody_eq_error he
    obtain ⟨-, -, -, -, used, -, rfl⟩ := palBody_eq_ok.1 hu
    exact .pal f n _ s

theorem exec_next {i : Instr} {s t : State} (h : exec i s = .next t) :
    (∃ u, Completes i s u ∧ t = advance u) ∨ ∃ e, e.code ≠ .none ∧ t = abort e s := by
  obtain ⟨u, hu, he⟩ | ⟨e, hc, he⟩ := exec_cases i s
  · exact .inl ⟨u, hu, Host.Outcome.next.inj (h.symm.trans he)⟩
  · exact .inr ⟨e, hc, Host.Outcome.next.inj (h.symm.trans he)⟩

/-! ## What a host's register write can do -/

theorem step_writeReg {s t : State} {k : Nat} {v : Word} {rest : List HostAction}
    (h : writeReg k v { s with host := rest } = t) : step { s with host := .writeReg k v :: rest } = .next t :=
  congrArg Host.Outcome.next h

@[simp] theorem writeReg_ctrl (v : Word) (s : State) : writeReg 0x001 v s = writeCtrl v s := rfl

theorem writeCtrl_of_srst {v : Word} (h : v.getLsbD 3 = true) (s : State) : writeCtrl v s = softReset s := by
  simp only [writeCtrl, h, if_true]

theorem writeCtrl_of_busy {v : Word} {s : State} (h : v.getLsbD 3 = false) (hb : s.busy = true) :
    writeCtrl v s = { s with ie := v.getLsbD 2 } := by
  simp only [writeCtrl, h, hb, Bool.false_eq_true, if_false, if_true]

/-- IE written and then CLRWARN: what a CTRL write does while idle, before GO (10_state.md R32). -/
def writeIeClrwarn (v : Word) (s : State) : State :=
  { s with
    ie := v.getLsbD 2
    warnCount := if v.getLsbD 1 then 0#32 else s.warnCount
    warnRgba := if v.getLsbD 1 then 0#32 else s.warnRgba }

theorem writeCtrl_of_idle {v : Word} {s : State} (h : v.getLsbD 3 = false) (hb : s.busy = false)
    (hgo : v.getLsbD 0 = false) : writeCtrl v s = writeIeClrwarn v s := by
  simp only [writeCtrl, writeIeClrwarn, h, hb, hgo, Bool.false_eq_true, if_false]
  cases v.getLsbD 1 <;> rfl

theorem writeCtrl_of_go {v : Word} {s : State} (h : v.getLsbD 3 = false) (hb : s.busy = false)
    (hgo : v.getLsbD 0 = true) : writeCtrl v s = start (writeIeClrwarn v s) := by
  simp only [writeCtrl, writeIeClrwarn, h, hb, hgo, Bool.false_eq_true, if_false, if_true]
  cases v.getLsbD 1 <;> rfl

/-- A write of CTRL resets, or writes IE, or does that and CLRWARN while idle, with GO or without. -/
theorem writeCtrl_cases (v : Word) (s : State) :
    writeCtrl v s = softReset s ∨ writeCtrl v s = { s with ie := v.getLsbD 2 } ∨
      (s.busy = false ∧
        (writeCtrl v s = start (writeIeClrwarn v s) ∨ writeCtrl v s = writeIeClrwarn v s)) := by
  by_cases h3 : v.getLsbD 3 = true
  · exact .inl (writeCtrl_of_srst h3 s)
  replace h3 := Bool.eq_false_of_not_eq_true h3
  by_cases hb : s.busy = true
  · exact .inr (.inl (writeCtrl_of_busy h3 hb))
  replace hb := Bool.eq_false_of_not_eq_true hb
  refine .inr (.inr ⟨hb, ?_⟩)
  by_cases hgo : v.getLsbD 0 = true
  · exact .inl (writeCtrl_of_go h3 hb hgo)
  · exact .inr (writeCtrl_of_idle h3 hb (Bool.eq_false_of_not_eq_true hgo))

theorem writeReg_of_busy {k : Nat} {s : State} (hk : k ≠ 0x001) (hb : s.busy = true) (v : Word) :
    writeReg k v s = s := by
  simp [writeReg, hk, hb]

/-- A write of a register other than CTRL changes only the RW-when-idle registers, and FIX_COUNT only to
min(v, 256) (10_state.md R30, R38). -/
theorem writeReg_of_ne_ctrl {k : Nat} (hk : k ≠ 0x001) (v : Word) (s : State) :
    ∃ cmd out col max unl base count,
      (count = s.fixCount ∨ count = BitVec.ofNat 9 (min v.toNat Config.fixCap)) ∧
      writeReg k v s = { s with
        cmdPtr := cmd, outPtr := out, colPtr := col, maxLimit := max, unlimited := unl
        fixBase := base, fixCount := count } := by
  simp only [writeReg, hk, if_false]
  split
  · exact ⟨_, _, _, _, _, _, _, .inl rfl, rfl⟩
  · split
    case h_6 => exact ⟨_, _, _, _, _, _, _, .inr rfl, rfl⟩
    all_goals exact ⟨_, _, _, _, _, _, _, .inl rfl, rfl⟩

/-- The read-only and the reserved registers ignore every write (10_state.md R30, R45). -/
theorem writeReg_of_readOnly {k : Nat} (hk : k = 0x000 ∨ k = 0x002 ∨ 0x009 ≤ k) (v : Word) (s : State) :
    writeReg k v s = s := by
  have hne : k ≠ 0x001 := by omega
  simp only [writeReg, hne, if_false]
  split
  · rfl
  · split
    case h_7 => rfl
    all_goals omega

/-! ## What every step keeps -/

/-- A property that each thing a step can do keeps is kept by every step: the host's list is taken from, a body
completes, the advance follows, a fetch or a body aborts, and the host's and the platform's own actions. -/
theorem step_keeps {P : State → Prop}
    (host : ∀ s rest, P s → P { s with host := rest })
    (body : ∀ i s u, s.busy = true → Completes i s u → P s → P u)
    (advances : ∀ s, P s → P (advance s))
    (aborts : ∀ e s, s.busy = true → e.code ≠ .none → P s → P (abort e s))
    (writes : ∀ k v s, P s → P (writeReg k v s))
    (loads : ∀ base bs s, s.busy = false → base + bs.length ≤ s.memSize → P s →
      P { s with buf := s.buf.writeBytes base bs })
    (powersOn : ∀ cells s, P s → P (powerOnReset cells s))
    (s t : State) (hs : P s) (h : step s = .next t) : P t := by
  have block : ∀ s, P s → blockStep s = .next t → P t := fun s hs h => by
    obtain ⟨-, rfl⟩ | ⟨hb, e, he, rfl⟩ | ⟨hb, i, -, hx⟩ := blockStep_next h
    · exact hs
    · exact aborts e s hb (by obtain hc | hc | hc := fetch_eq_error he <;> simp [hc]) hs
    · obtain ⟨u, hu, rfl⟩ | ⟨e, hc, rfl⟩ := exec_next hx
      · exact advances u (body i s u hb hu hs)
      · exact aborts e s hb hc hs
  obtain ⟨-, hb⟩ | ⟨act, rest, -, ha⟩ := step_next h
  · exact block s hs hb
  · have hr := host s rest hs
    obtain ⟨-, hb⟩ | ⟨k, v, -, rfl⟩ | ⟨base, bs, -, hb, hin, rfl⟩ | ⟨cells, -, rfl⟩ := hostStep_next ha
    · exact block _ hr hb
    · exact writes k v _ hr
    · exact loads base bs _ hb hin hr
    · exact powersOn cells _ hr

end Sys2Proof.Machine
end

section
/-! PROOFS. The invariants of 10_state.md that every step keeps: the status, the mapping and the registers. -/

namespace Sys2Proof.Machine

/-! ## The status (10_state.md R34) -/

theorem StatusOk.congr {s t : State} (h : StatusOk s) (hbusy : t.busy = s.busy) (hdone : t.done = s.done)
    (herror : t.error = s.error) (hcode : t.errCode = s.errCode) (ha : t.errA = s.errA)
    (hb : t.errB = s.errB) : StatusOk t := by
  obtain ⟨doneNotError, busyClear, codeIff, infoClear⟩ := h
  constructor <;> simpa only [hbusy, hdone, herror, hcode, ha, hb]

/-- No body but END's writes a status register. -/
theorem Completes.status {i : Instr} {s u : State} (h : Completes i s u) :
    (i = .endStream ∧ u = finishStream s) ∨
      (u.busy = s.busy ∧ u.done = s.done ∧ u.error = s.error ∧ u.errCode = s.errCode ∧ u.errA = s.errA ∧
        u.errB = s.errB) := by
  cases h with
  | finish => exact .inl ⟨rfl, rfl⟩
  | tile | frame => simp [emit]
  | keep | pointers | result | warned | clear | build | pal => exact .inr ⟨rfl, rfl, rfl, rfl, rfl, rfl⟩

theorem StatusOk.finishStream {s : State} (h : StatusOk s) (hb : s.busy = true) :
    StatusOk (finishStream s) where
  doneNotError _ := (h.busyClear hb).2
  busyClear := nofun
  codeIff := h.codeIff
  infoClear := h.infoClear

theorem StatusOk.abort {s : State} (h : StatusOk s) (hb : s.busy = true) {e : Err} (he : e.code ≠ .none) :
    StatusOk (abort e s) where
  doneNotError hd := by simp [(h.busyClear hb).1] at hd
  busyClear := nofun
  codeIff := by simp [he]
  infoClear := nofun

theorem StatusOk.start (s : State) : StatusOk (start s) where
  doneNotError := nofun
  busyClear _ := ⟨rfl, rfl⟩
  codeIff := by simp
  infoClear _ := ⟨rfl, rfl⟩

theorem StatusOk.softReset (s : State) : StatusOk (softReset s) where
  doneNotError := nofun
  busyClear := nofun
  codeIff := by simp [State.reset]
  infoClear _ := ⟨rfl, rfl⟩

theorem StatusOk.writeReg {s : State} (h : StatusOk s) (k : Nat) (v : Word) : StatusOk (writeReg k v s) := by
  by_cases hk : k = 0x001
  · subst hk
    rw [writeReg_ctrl]
    obtain he | he | ⟨-, he | he⟩ := writeCtrl_cases v s <;> rw [he]
    · exact .softReset s
    · exact h.congr rfl rfl rfl rfl rfl rfl
    · exact .start _
    · exact h.congr rfl rfl rfl rfl rfl rfl
  · obtain ⟨_, _, _, _, _, _, _, -, he⟩ := writeReg_of_ne_ctrl hk v s
    rw [he]
    exact h.congr rfl rfl rfl rfl rfl rfl

/-- Settles O57: only END, an abort, GO and a reset write the status, each of them consistently. -/
theorem stepKeepsStatusOk : Obligations.StepKeepsStatusOk :=
  step_keeps
    (host := fun _ _ h => h.congr rfl rfl rfl rfl rfl rfl)
    (body := fun _ s _ hb hc h => by
      obtain ⟨-, rfl⟩ | ⟨hbusy, hdone, herror, hcode, ha, hb⟩ := hc.status
      · exact h.finishStream hb
      · exact h.congr hbusy hdone herror hcode ha hb)
    (advances := fun _ h => h.congr rfl rfl rfl rfl rfl rfl)
    (aborts := fun _ _ hb he h => h.abort hb he)
    (writes := fun k v _ h => h.writeReg k v)
    (loads := fun _ _ _ _ _ h => h.congr rfl rfl rfl rfl rfl rfl)
    (powersOn := fun _ s _ => (StatusOk.softReset s).congr rfl rfl rfl rfl rfl rfl)

/-! ## The mapping (10_state.md R41) -/

theorem LutOk.congr {s t : State} (h : LutOk s) (hlut : t.lut = s.lut) (hn : t.lutN = s.lutN)
    (hvalid : t.lutValid = s.lutValid) : LutOk t := by
  obtain ⟨distinct, cleared, invalidEmpty⟩ := h
  constructor <;> simpa only [hlut, hn, hvalid]

/-- A LUT with no colour, as MAPCLR and the resets leave it. -/
theorem LutOk.of_empty {s : State} (hlut : s.lut = Vector.replicate 255 0#24) (hn : s.lutN = 0#8) : LutOk s where
  distinct := by simp [hn]
  cleared k _ := by
    rw [hlut, Vector.toList_replicate, List.getD_eq_getElem?_getD, List.getElem?_replicate]
    split <;> rfl
  invalidEmpty _ := hn

theorem maxEff_le_lutCap (s : State) : maxEff s ≤ Config.lutCap := by
  unfold maxEff
  split
  · exact Nat.le_refl _
  · exact Nat.le_of_lt_succ s.maxLimit.isLt

theorem setLut_lutN_toNat {colors : List Rgb} (h : colors.length ≤ 255) (s : State) :
    (setLut colors s).lutN.toNat = colors.length := by
  simp; omega

/-- The LUT that MAPBUILD leaves: the colours in list order, 0 in every later slot. -/
theorem setLut_lut_toList {colors : List Rgb} (h : colors.length ≤ 255) (s : State) :
    (setLut colors s).lut.toList = colors ++ List.replicate (255 - colors.length) 0#24 := by
  refine List.ext_getElem (by simp; omega) fun k hk _ => ?_
  by_cases hc : k < colors.length
  · simp [hc]
  · simp [List.getElem_append_right (Nat.not_lt.1 hc), Nat.not_lt.1 hc]

theorem LutOk.setLut {colors : List Rgb} (distinct : colors.Nodup) (fits : colors.length ≤ 255) (s : State) :
    LutOk (setLut colors s) where
  distinct := by rwa [setLut_lutN_toNat fits, setLut_lut_toList fits, List.take_left]
  cleared k hk := by
    rw [setLut_lutN_toNat fits] at hk
    rw [setLut_lut_toList fits, List.getD_append_right _ _ _ _ hk, List.getD_eq_getElem?_getD,
      List.getElem?_replicate]
    split <;> rfl
  invalidEmpty := nofun

theorem LutOk.completes {i : Instr} {s u : State} (h : LutOk s) (hc : Completes i s u) : LutOk u := by
  cases hc with
  | clear => exact .of_empty rfl rfl
  | build _ _ colors _ distinct fits => exact .setLut distinct (fits.trans (maxEff_le_lutCap s)) s
  | tile | frame => exact h.congr (by simp [emit]) (by simp [emit]) (by simp [emit])
  | finish | keep | pointers | result | warned | pal => exact h.congr rfl rfl rfl

theorem LutOk.writeReg {s : State} (h : LutOk s) (k : Nat) (v : Word) : LutOk (writeReg k v s) := by
  by_cases hk : k = 0x001
  · subst hk
    rw [writeReg_ctrl]
    obtain he | he | ⟨-, he | he⟩ := writeCtrl_cases v s <;> rw [he]
    · exact .of_empty rfl rfl
    all_goals exact h.congr rfl rfl rfl
  · obtain ⟨_, _, _, _, _, _, _, -, he⟩ := writeReg_of_ne_ctrl hk v s
    rw [he]
    exact h.congr rfl rfl rfl

/-- Settles O58: only MAPCLR, MAPBUILD and a reset write the LUT; MAPBUILD's colours are distinct because it raises
DUP_COLOR at a repeat. -/
theorem stepKeepsLutOk : Obligations.StepKeepsLutOk :=
  step_keeps
    (host := fun _ _ h => h.congr rfl rfl rfl)
    (body := fun _ _ _ _ hc h => h.completes hc)
    (advances := fun _ h => h.congr rfl rfl rfl)
    (aborts := fun _ _ _ _ h => h.congr rfl rfl rfl)
    (writes := fun k v _ h => h.writeReg k v)
    (loads := fun _ _ _ _ _ h => h.congr rfl rfl rfl)
    (powersOn := fun _ _ _ => .of_empty rfl rfl)

/-! ## FIX_COUNT and the warning latch (10_state.md R38, R43) -/

theorem RegistersOk.congr {s t : State} (h : RegistersOk s) (hfix : t.fixCount = s.fixCount)
    (hcount : t.warnCount = s.warnCount) (hrgba : t.warnRgba = s.warnRgba) : RegistersOk t := by
  obtain ⟨fixCap, noWarning⟩ := h
  constructor <;> simpa only [hfix, hcount, hrgba]

/-- The saturating count of a warning never wraps to 0. -/
theorem warn_warnCount_ne_zero (px : Word) (s : State) : (warn px s).warnCount ≠ 0#32 := by
  rw [warn_warnCount]
  have hmax : Config.wordMax = 4294967295 := rfl
  split <;> bv_omega

theorem RegistersOk.warn {s : State} (h : RegistersOk s) (px : Word) : RegistersOk (warn px s) where
  fixCap := h.fixCap
  noWarning h0 := absurd h0 (warn_warnCount_ne_zero px s)

theorem RegistersOk.warnAll {s : State} (h : RegistersOk s) (pxs : List Word) : RegistersOk (warnAll pxs s) := by
  induction pxs generalizing s with
  | nil => exact h
  | cons px rest ih => exact ih (h.warn px)

theorem RegistersOk.emit {s : State} (h : RegistersOk s) (e : Encoded) : RegistersOk (emit e s) :=
  have hput : RegistersOk (putCol e.col (putOut e.pat s)) := h.congr rfl rfl rfl
  hput.warnAll e.misses

theorem RegistersOk.softReset (s : State) : RegistersOk (softReset s) where
  fixCap := Nat.zero_le _
  noWarning _ := rfl

theorem RegistersOk.writeIeClrwarn {s : State} (h : RegistersOk s) (v : Word) :
    RegistersOk (writeIeClrwarn v s) where
  fixCap := h.fixCap
  noWarning h0 := by
    cases hw : v.getLsbD 1
    · simp only [Machine.writeIeClrwarn, hw, Bool.false_eq_true, if_false] at h0 ⊢
      exact h.noWarning h0
    · simp [Machine.writeIeClrwarn, hw]

theorem RegistersOk.completes {i : Instr} {s u : State} (h : RegistersOk s) (hc : Completes i s u) :
    RegistersOk u := by
  cases hc with
  | warned px => exact (h.warn px).congr rfl rfl rfl
  | tile | frame => exact h.emit _
  | finish | keep | pointers | result | clear | build | pal => exact h.congr rfl rfl rfl

theorem RegistersOk.writeReg {s : State} (h : RegistersOk s) (k : Nat) (v : Word) :
    RegistersOk (writeReg k v s) := by
  by_cases hk : k = 0x001
  · subst hk
    rw [writeReg_ctrl]
    obtain he | he | ⟨-, he | he⟩ := writeCtrl_cases v s <;> rw [he]
    · exact .softReset s
    · exact h.congr rfl rfl rfl
    · exact (h.writeIeClrwarn v).congr rfl rfl rfl
    · exact h.writeIeClrwarn v
  · obtain ⟨_, _, _, _, _, _, count, hcount, he⟩ := writeReg_of_ne_ctrl hk v s
    rw [he]
    refine ⟨?_, h.noWarning⟩
    obtain rfl | rfl := hcount
    · exact h.fixCap
    · have hcap : Config.fixCap = 256 := rfl
      simp; omega

/-- Settles O59: FIX_COUNT is written only as min(v, 256), and WARN_RGBA only with a count that stays above 0. -/
theorem stepKeepsRegistersOk : Obligations.StepKeepsRegistersOk :=
  step_keeps
    (host := fun _ _ h => h.congr rfl rfl rfl)
    (body := fun _ _ _ _ hc h => h.completes hc)
    (advances := fun _ h => h.congr rfl rfl rfl)
    (aborts := fun _ _ _ _ h => h.congr rfl rfl rfl)
    (writes := fun k v _ h => h.writeReg k v)
    (loads := fun _ _ _ _ _ h => h.congr rfl rfl rfl)
    (powersOn := fun _ s _ => (RegistersOk.softReset s).congr rfl rfl rfl)

end Sys2Proof.Machine
end

section
/-! PROOFS. The register port: the words a host reads, what its writes do, and the values a read may return during
a run. -/

namespace Sys2Proof.Machine

/-! ## Words made of fields -/

/-- A field above another adds its value times 2^m. -/
theorem toNat_append_eq_add {k m : Nat} (x : BitVec k) (y : BitVec m) :
    (x ++ y).toNat = 2 ^ m * x.toNat + y.toNat := by
  rw [BitVec.toNat_append, ← Nat.shiftLeft_add_eq_or_of_lt y.isLt, Nat.shiftLeft_eq, Nat.mul_comm]

theorem statusWord_toNat (s : State) :
    (statusWord s).toNat = s.busy.toNat + 2 * s.done.toNat + 4 * s.error.toNat + 8 * (warnFlag s).toNat +
      16 * (irq s).toNat + 256 * s.errCode.byte.toNat := by
  simp only [statusWord, toNat_append_eq_add, BitVec.toNat_ofBool, BitVec.toNat_ofNat]
  omega

theorem ctrlWord_eq (s : State) : ctrlWord s = if s.ie then 4#32 else 0#32 := by
  unfold ctrlWord
  cases s.ie <;> rfl

theorem maxColorsWord_toNat (s : State) :
    (maxColorsWord s).toNat = 2 ^ 31 * s.unlimited.toNat + s.maxLimit.toNat := by
  simp only [maxColorsWord, toNat_append_eq_add, BitVec.toNat_ofBool, BitVec.toNat_ofNat]
  omega

theorem lutStatWord_toNat (s : State) :
    (lutStatWord s).toNat = 2 ^ 31 * s.lutValid.toNat + s.lutN.toNat := by
  simp only [lutStatWord, toNat_append_eq_add, BitVec.toNat_ofBool, BitVec.toNat_ofNat]
  omega

theorem lutWindow_toNat (s : State) (k : Nat) :
    (lutWindow s k).toNat =
      if s.lutValid = true ∧ 1 ≤ k ∧ k ≤ s.lutN.toNat then (lutSlot s k).toNat else 0 := by
  unfold lutWindow
  split
  · exact BitVec.toNat_setWidth_of_le (by decide)
  · rfl

/-! ## Register reads -/

/-- Past RESULT the port holds the LUT window and reserved indices only (10_state.md R41, R45). -/
theorem readReg_of_ge {k : Nat} (hk : 0x00F ≤ k) (s : State) :
    readReg s k = if 0x100 ≤ k ∧ k ≤ 0x1FF then lutWindow s (k - 0x100) else 0#32 := by
  unfold readReg
  split
  case h_16 => rfl
  all_goals omega

theorem readReg_lutWindow {k : Nat} (hk : k < 256) (s : State) : readReg s (0x100 + k) = lutWindow s k := by
  rw [readReg_of_ge (by omega), if_pos (by omega), Nat.add_sub_cancel_left]

theorem readReg_reserved {k : Nat} (hk : (0x00F ≤ k ∧ k ≤ 0x0FF) ∨ 0x200 ≤ k) (s : State) :
    readReg s k = 0#32 := by
  rw [readReg_of_ge (by omega), if_neg (by omega)]

/-- Settles O47, field by field of the STATUS word. -/
theorem statusWordLayout : Obligations.StatusWordLayout := fun s => ⟨statusWord_toNat s, rfl, by decide⟩

/-! ## Register writes -/

/-- Settles O48, by the four cases of a CTRL write. -/
theorem ctrlWriteActsInOrder : Obligations.CtrlWriteActsInOrder := fun s _ _ =>
  ⟨fun h3 => step_writeReg (writeCtrl_of_srst h3 _),
    fun h3 hb => step_writeReg (writeCtrl_of_busy h3 hb),
    fun h3 hb hgo => step_writeReg (writeCtrl_of_idle h3 hb hgo),
    fun h3 hb hgo => step_writeReg (writeCtrl_of_go h3 hb hgo),
    ctrlWord_eq s⟩

theorem writeReg_of_idle {s : State} (hb : s.busy = false) (v : Word) :
    writeReg 0x003 v s = { s with cmdPtr := v } ∧ writeReg 0x004 v s = { s with outPtr := v } ∧
      writeReg 0x005 v s = { s with colPtr := v } ∧
      writeReg 0x006 v s = { s with maxLimit := v.setWidth 8, unlimited := v.getLsbD 31 } ∧
      writeReg 0x007 v s = { s with fixBase := v } ∧
      writeReg 0x008 v s = { s with fixCount := BitVec.ofNat 9 (min v.toNat 256) } := by
  simp [writeReg, hb, writeMaxColors, BitVec.setWidth_eq_extractLsb', writeFixCount, Config.fixCap]

/-- Settles O49: the writes while busy, the RW-when-idle registers, and the indices that ignore every write. -/
theorem hostWritesOfOtherRegisters : Obligations.HostWritesOfOtherRegisters := by
  intro s v rest
  refine ⟨fun hb k hk => step_writeReg (writeReg_of_busy (s := { s with host := rest }) hk hb v), fun hb => ?_⟩
  obtain ⟨hcmd, hout, hcol, hmax, hbase, hcount⟩ := writeReg_of_idle (s := { s with host := rest }) hb v
  exact ⟨step_writeReg hcmd, step_writeReg hout, step_writeReg hcol, step_writeReg hmax, step_writeReg hbase,
    step_writeReg hcount, fun k hk => step_writeReg (writeReg_of_readOnly hk v _)⟩

/-! ## The boundaries of a run, and what a host may read at them -/

theorem boundary_succ_of_step {origin t : State} (h : step origin = .next t) (n : Nat) :
    boundary (n + 1) origin = boundary n t := by
  change agentStep origin = .next t at h
  simp only [boundary, h]

/-- A run that stops at its origin stays there. -/
theorem boundary_of_stopped {origin : State} (h : ∀ t, step origin ≠ .next t) (n : Nat) :
    boundary n origin = origin := by
  cases n with
  | zero => rfl
  | succ n =>
    simp only [boundary]
    split
    · exact absurd ‹_› (h _)
    · rfl
    · rfl

/-- Each further boundary is what the step answers at the boundary before. -/
theorem boundary_succ {n : Nat} {origin t : State} (h : step (boundary n origin) = .next t) :
    boundary (n + 1) origin = t := by
  induction n generalizing origin with
  | zero => exact boundary_succ_of_step h 0
  | succ n ih =>
    by_cases hs : ∃ u, step origin = .next u
    · obtain ⟨u, hu⟩ := hs
      rw [boundary_succ_of_step hu] at h ⊢
      exact ih h
    · have hstop : ∀ u, step origin ≠ .next u := fun u hu => hs ⟨u, hu⟩
      rw [boundary_of_stopped hstop] at h
      exact absurd h (hstop t)

theorem mayReadReg_of_idle {origin : State} {n index : Nat} {v : Word} (h : (boundary n origin).busy = false) :
    MayReadReg origin n index v ↔ v = readReg (boundary n origin) index := by
  constructor
  · rintro ⟨k, hk, rfl | hsince, hv⟩
    · exact hv
    · exact absurd (hsince n hk (Nat.le_refl n)) (by simp [h])
  · exact fun hv => ⟨n, Nat.le_refl n, .inl rfl, hv⟩

/-- What may be read at a boundary: its own word and, if the block was busy before and still is, what could be read
at the boundary before. -/
theorem mayReadReg_succ {origin : State} {n index : Nat} {v : Word} :
    MayReadReg origin (n + 1) index v ↔
      v = readReg (boundary (n + 1) origin) index ∨
        (boundary n origin).busy = true ∧ (boundary (n + 1) origin).busy = true ∧
          MayReadReg origin n index v := by
  constructor
  · rintro ⟨k, hk, hsince, hv⟩
    by_cases hkn : k = n + 1
    · exact .inl (hkn ▸ hv)
    · have hle : k ≤ n := by omega
      have hbusy : BusySince origin k (n + 1) := hsince.resolve_left hkn
      exact .inr ⟨hbusy n hle (by omega), hbusy (n + 1) hk (Nat.le_refl _), k, hle,
        .inr fun j hkj hjn => hbusy j hkj (by omega), hv⟩
  · rintro (hv | ⟨hb, hb', k, hk, hsince, hv⟩)
    · exact ⟨n + 1, Nat.le_refl _, .inl rfl, hv⟩
    · refine ⟨k, by omega, .inr fun j hkj hjn => ?_, hv⟩
      obtain rfl | rfl | hj : j = n + 1 ∨ j = n ∨ j < n := by omega
      · exact hb'
      · exact hb
      · exact hsince.elim (fun hkn => by omega) fun hbusy => hbusy j hkj (by omega)

/-- Settles O50: the words by `readReg`'s cases, the reads during a run by `mayReadReg_succ`. -/
theorem registerReads : Obligations.RegisterReads := by
  refine ⟨fun s => ⟨rfl, rfl, rfl, rfl, maxColorsWord_toNat s, rfl, BitVec.toNat_setWidth_of_le (by decide), rfl,
    rfl, rfl, rfl, lutStatWord_toNat s, rfl, fun k hk => ?_, fun k hk => readReg_reserved hk s⟩,
    fun origin n index v => ⟨rfl, fun t ht => boundary_succ ht, fun hidle => ⟨mayReadReg_of_idle hidle, ?_⟩,
      fun hb hb' => ?_⟩⟩
  · rw [readReg_lutWindow hk, lutWindow_toNat]
  · simp [mayReadReg_succ, hidle]
  · simp [mayReadReg_succ, hb, hb']

end Sys2Proof.Machine
end

section
/-! PROOFS. BUF: how many bytes a command writes, where it writes them, that every step keeps the memory canonical
and inside MEM_SIZE, and what a host may read of it. -/

namespace Sys2Proof.Machine

/-! ## The lengths of the outputs (43_tile_encoder.md R225, 44_palette_serializer.md R273) -/

theorem length_flatMap_of_forall {α β : Type} {l : List α} {f : α → List β} {k : Nat}
    (h : ∀ x ∈ l, (f x).length = k) : (l.flatMap f).length = l.length * k := by
  rw [List.length_flatMap, List.map_congr_left h]
  simp

theorem adjacentPairs_length : ∀ row : List Byte, (adjacentPairs row).length = row.length / 2
  | [] => rfl
  | [_] => by simp [adjacentPairs]
  | _ :: _ :: rest => by simp [adjacentPairs, adjacentPairs_length rest]; omega

theorem interleavedPlanes_length (low high : Nat) (rows : List (List Byte)) :
    (interleavedPlanes low high rows).length = rows.length * 2 :=
  length_flatMap_of_forall (k := 2) fun _ _ => rfl

theorem slotRows_window_isSquare (s : State) (fb : Word) (w edge tx ty : Nat) :
    IsSquare (slotRows s (window s fb w edge tx ty)) edge := by
  simp [IsSquare, slotRows, window]

/-- A square window gives `plen` pattern bytes in every layout. -/
theorem patternBytes_length {L : TileLayout} {rows : List (List Byte)} (h : IsSquare rows (tileEdge L)) :
    (patternBytes L rows).length = patternLength L := by
  obtain ⟨height, width⟩ := h
  have perRow {f : List Byte → List Byte} {k : Nat} (hf : ∀ row ∈ rows, (f row).length = k) :
      (rows.flatMap f).length = tileEdge L * k := height ▸ length_flatMap_of_forall hf
  have pairs (g : Byte × Byte → Byte) (row) (hr : row ∈ rows) :
      ((adjacentPairs row).map g).length = tileEdge L / 2 := by
    rw [List.length_map, adjacentPairs_length, width row hr]
  cases L with
  | planar2 | mono1 | mono1T16 => simp [patternBytes, patternLength, maskBlock, height, tileEdge]
  | inter2 | bp4 => simp [patternBytes, patternLength, interleavedPlanes_length, height, tileEdge]
  | nib4h | nib4l => exact perRow (pairs _)
  | lin8 => exact perRow width
  | mono1T16Rows => exact perRow (f := fun row => [maskByte 0 row, maskByte 8 row]) (k := 2) fun _ _ => rfl

@[simp] theorem colorBytes_length (L : TileLayout) (fg : Byte) : (colorBytes L fg).length = colorLength L :=
  List.length_replicate

theorem encodeTile_lengths {L : TileLayout} {fb : Word} {w tx ty : Nat} {s : State} {e : Encoded}
    (h : encodeTile L fb w tx ty s = .ok e) :
    e.pat.length = patternLength L ∧ e.col.length = colorLength L := by
  obtain ⟨-, fg, -, rfl⟩ := encodeTile_eq_ok.1 h
  exact ⟨patternBytes_length (slotRows_window_isSquare ..), colorBytes_length L fg⟩

theorem encodeTiles_lengths {L : TileLayout} {fb : Word} {w : Nat} {s : State} {tiles : List (Nat × Nat)}
    {e : Encoded} (h : encodeTiles L fb w s tiles = .ok e) :
    e.pat.length = tiles.length * patternLength L ∧ e.col.length = tiles.length * colorLength L := by
  induction tiles generalizing e with
  | nil =>
    obtain rfl := Except.ok.inj h
    simp
  | cons tile rest ih =>
    obtain ⟨first, hfirst, h⟩ := bind_eq_ok.1 h
    obtain ⟨others, hothers, h⟩ := bind_eq_ok.1 h
    obtain rfl := pure_eq_ok.1 h
    obtain ⟨hpat, hcol⟩ := encodeTile_lengths hfirst
    obtain ⟨hpats, hcols⟩ := ih hothers
    simp only [List.length_append, List.length_cons, hpat, hcol, hpats, hcols, Nat.succ_mul, Nat.add_comm,
      and_self]

theorem tileCoords_length (nx ny : Nat) : (tileCoords nx ny).length = nx * ny := by
  rw [tileCoords, length_flatMap_of_forall (k := nx) (by simp), List.length_range, Nat.mul_comm]

theorem slotBytes_length {f : PalFormat} {s : State} {slot : Nat} {x : Rgb} {bytes : List Byte}
    (h : slotBytes f s slot x = .ok bytes) : bytes.length = bytesPerSlot f := by
  cases f with
  | fixed =>
    simp only [slotBytes, fixedSlotBytes] at h
    split at h
    · exact Except.ok.inj h ▸ rfl
    · cases h
  | sms | gen | genHf | bgr555 | msx2 => exact Except.ok.inj h ▸ rfl

theorem serializeSlots_length {f : PalFormat} {s : State} {slot : Nat} {colors : List Rgb} {bytes : List Byte}
    (h : serializeSlots f s slot colors = .ok bytes) : bytes.length = colors.length * bytesPerSlot f := by
  induction colors generalizing slot bytes with
  | nil =>
    obtain rfl := Except.ok.inj h
    simp
  | cons x rest ih =>
    obtain ⟨first, hfirst, h⟩ := bind_eq_ok.1 h
    obtain ⟨others, hothers, h⟩ := bind_eq_ok.1 h
    obtain rfl := pure_eq_ok.1 h
    rw [List.length_append, slotBytes_length hfirst, ih hothers, List.length_cons, Nat.succ_mul, Nat.add_comm]

theorem lutColors_length (s : State) : (lutColors s).length = s.lutN.toNat := by
  simp [lutColors]; omega

/-- The buffer of PAL has S·E bytes when the mapping and slot 0 fit in S slots. -/
theorem paletteBuffer_length {f : PalFormat} {n : SlotCount} {s : State} {used : List Byte}
    (fits : s.lutN.toNat + 1 ≤ slotCount n) (h : serializeSlots f s 1 (lutColors s) = .ok used) :
    (paletteBuffer f n s used).length = slotCount n * bytesPerSlot f := by
  obtain ⟨pad, hpad⟩ := Nat.exists_eq_add_of_le fits
  simp only [paletteBuffer, List.length_append, List.length_replicate, serializeSlots_length h,
    lutColors_length, hpad, Nat.add_sub_cancel_left]
  ring

/-! ## What a command writes in BUF -/

/-- From `s` to `t` the bytes `pat` were written at OUT_PTR and then `col` at COL_PTR, both inside BUF, and each
pointer advanced past its bytes; `exec_outputs` ties it to `exec`. -/
structure Outputs (pat col : List Byte) (s t : State) : Prop where
  patInside : inRange s ⟨s.outPtr, pat.length⟩
  colInside : inRange s ⟨s.colPtr, col.length⟩
  memSize : t.memSize = s.memSize
  buf : t.buf = (s.buf.writeBytes s.outPtr.toNat pat).writeBytes s.colPtr.toNat col
  outPtr : t.outPtr = s.outPtr + BitVec.ofNat 32 pat.length
  colPtr : t.colPtr = s.colPtr + BitVec.ofNat 32 col.length

theorem Outputs.nothing {s t : State} (memSize : t.memSize = s.memSize) (buf : t.buf = s.buf)
    (outPtr : t.outPtr = s.outPtr) (colPtr : t.colPtr = s.colPtr) : Outputs [] [] s t where
  patInside := .inl rfl
  colInside := .inl rfl
  memSize := memSize
  buf := buf
  outPtr := by simp [outPtr]
  colPtr := by simp [colPtr]

theorem Outputs.emit {e : Encoded} {s : State} (hpat : inRange s ⟨s.outPtr, e.pat.length⟩)
    (hcol : inRange s ⟨s.colPtr, e.col.length⟩) : Outputs e.pat e.col s (advance (emit e s)) where
  patInside := hpat
  colInside := hcol
  memSize := by simp [Machine.emit]
  buf := emit_buf e s
  outPtr := emit_outPtr e s
  colPtr := emit_colPtr e s

theorem Outputs.putOut {bytes : List Byte} {s : State} (h : inRange s ⟨s.outPtr, bytes.length⟩) :
    Outputs bytes [] s (advance (putOut bytes s)) where
  patInside := h
  colInside := .inl rfl
  memSize := rfl
  buf := rfl
  outPtr := rfl
  colPtr := by simp

theorem Outputs.of_abort (e : Err) (s : State) : Outputs [] [] s (abort e s) := .nothing rfl rfl rfl rfl

/-- A command whose completed body outputs inside BUF does so whether it completes or aborts. -/
theorem complete_outputs {s t : State} {r : Except Err State} (h : complete s r = .next t)
    (body : ∀ u, r = .ok u → ∃ pat col, Outputs pat col s (advance u)) : ∃ pat col, Outputs pat col s t := by
  obtain ⟨u, hu, rfl⟩ | ⟨e, -, rfl⟩ := complete_next h
  · exact body u hu
  · exact ⟨[], [], .of_abort e s⟩

theorem exec_tileInstr_outputs {L : TileLayout} {fb : Word} {w h tx ty : Half} {s t : State}
    (hx : exec (tileInstr L fb w h tx ty) s = .next t) : ∃ pat col, Outputs pat col s t := by
  rw [exec_tileInstr] at hx
  refine complete_outputs hx fun u hu => ?_
  obtain ⟨-, -, hranges, e, he, rfl⟩ := tileBody_eq_ok.1 hu
  obtain ⟨-, hout, hcol, -⟩ := checkTileRanges_eq_ok.1 hranges
  obtain ⟨hpatLen, hcolLen⟩ := encodeTile_lengths he
  simp only [tileOutRange, tileColRange, Nat.one_mul, ← hpatLen, ← hcolLen] at hout hcol
  exact ⟨_, _, .emit hout hcol⟩

theorem exec_frameInstr_outputs {L : TileLayout} {fb : Word} {w h : Half} {s t : State}
    (hx : exec (frameInstr L fb w h) s = .next t) : ∃ pat col, Outputs pat col s t := by
  rw [exec_frameInstr] at hx
  refine complete_outputs hx fun u hu => ?_
  obtain ⟨-, -, hranges, e, he, rfl⟩ := frameBody_eq_ok.1 hu
  obtain ⟨-, hout, hcol, -⟩ := checkTileRanges_eq_ok.1 hranges
  obtain ⟨hpatLen, hcolLen⟩ := encodeTiles_lengths he
  simp only [tileOutRange, tileColRange, ← tileCoords_length, ← hpatLen, ← hcolLen] at hout hcol
  exact ⟨_, _, .emit hout hcol⟩

theorem exec_palInstr_outputs {f : PalFormat} {n : SlotCount} {s t : State}
    (hx : exec (palInstr f n) s = .next t) : ∃ pat col, Outputs pat col s t := by
  rw [exec_palInstr] at hx
  refine complete_outputs hx fun u hu => ?_
  obtain ⟨-, fits, hrange, -, used, hused, rfl⟩ := palBody_eq_ok.1 hu
  rw [palRange, ← paletteBuffer_length fits hused] at hrange
  exact ⟨_, _, .putOut hrange⟩

/-- Every command but SETOUT outputs bytes at the pointers, inside BUF, possibly none; SETOUT sets the pointers. -/
theorem exec_outputs {i : Instr} {s t : State} (h : exec i s = .next t) :
    (∃ out col, i = .setout out col ∧ t = advance (setPointers out col s)) ∨
      ∃ pat col, Outputs pat col s t := by
  obtain ⟨u, hu, rfl⟩ | ⟨e, -, rfl⟩ := exec_next h
  · cases hu with
    | pointers out col => exact .inl ⟨out, col, rfl, rfl⟩
    | tile => exact .inr (exec_tileInstr_outputs h)
    | frame => exact .inr (exec_frameInstr_outputs h)
    | pal => exact .inr (exec_palInstr_outputs h)
    | finish | keep | result | warned | clear | build => exact .inr ⟨[], [], .nothing rfl rfl rfl rfl⟩
  · exact .inr ⟨[], [], .of_abort e s⟩

/-- Only TILE, FRAME and PAL write BUF. -/
theorem exec_buf_of_not_output {i : Instr} {s t : State} (hx : exec i s = .next t)
    (tile : ∀ L fb w h tx ty, i ≠ tileInstr L fb w h tx ty) (frame : ∀ L fb w h, i ≠ frameInstr L fb w h)
    (pal : ∀ f n, i ≠ palInstr f n) : t.buf = s.buf := by
  obtain ⟨u, hu, rfl⟩ | ⟨e, -, rfl⟩ := exec_next hx
  · cases hu with
    | tile L fb w h tx ty => exact absurd rfl (tile L fb w h tx ty)
    | frame L fb w h => exact absurd rfl (frame L fb w h)
    | pal f n => exact absurd rfl (pal f n)
    | finish | keep | pointers | result | warned | clear | build => rfl
  · rfl

/-! ## A canonical memory inside MEM_SIZE (20_memory.md R70, R74) -/

theorem MemoryOk.congr {s t : State} (h : MemoryOk s) (hbuf : t.buf = s.buf) (hsize : t.memSize = s.memSize) :
    MemoryOk t := by
  obtain ⟨canonical, inside, sizeMin, sizeMax⟩ := h
  constructor <;> simpa only [hbuf, hsize]

/-- Bytes written inside BUF keep it canonical and inside MEM_SIZE; an empty run may start anywhere. -/
theorem MemoryOk.writeBytes {s : State} (h : MemoryOk s) {base : Nat} {bs : List Byte}
    (hin : bs.length = 0 ∨ base + bs.length ≤ s.memSize) :
    MemoryOk { s with buf := s.buf.writeBytes base bs } where
  canonical := Memory.wf_writeBytes bs h.canonical base
  inside c hc := by
    obtain hrun | hold := Memory.mem_writeBytes hc
    · change c.1 < s.memSize
      omega
    · exact h.inside c hold
  sizeMin := h.sizeMin
  sizeMax := h.sizeMax

theorem MemoryOk.powerOnReset {s : State} (h : MemoryOk s) (cells : List Host.Cell) :
    MemoryOk (powerOnReset cells s) where
  canonical := Memory.wf_ofCells s.memSize cells
  inside _ hc := Memory.mem_ofCells hc
  sizeMin := h.sizeMin
  sizeMax := h.sizeMax

theorem MemoryOk.outputs {s t : State} {pat col : List Byte} (h : MemoryOk s) (ho : Outputs pat col s t) :
    MemoryOk t :=
  ((h.writeBytes ho.patInside).writeBytes ho.colInside).congr ho.buf ho.memSize

theorem MemoryOk.exec {i : Instr} {s t : State} (h : MemoryOk s) (hx : exec i s = .next t) : MemoryOk t := by
  obtain ⟨out, col, -, rfl⟩ | ⟨pat, col, ho⟩ := exec_outputs hx
  · exact h.congr rfl rfl
  · exact h.outputs ho

theorem MemoryOk.blockStep {s t : State} (h : MemoryOk s) (hb : blockStep s = .next t) : MemoryOk t := by
  obtain ⟨-, rfl⟩ | ⟨-, e, -, rfl⟩ | ⟨-, i, -, hx⟩ := blockStep_next hb
  · exact h
  · exact h.congr rfl rfl
  · exact h.exec hx

/-- No register write, a reset by SRST included, touches BUF (70_reset_and_hazards.md R340). -/
theorem writeReg_memory (k : Nat) (v : Word) (s : State) :
    (writeReg k v s).buf = s.buf ∧ (writeReg k v s).memSize = s.memSize := by
  by_cases hk : k = 0x001
  · subst hk
    rw [writeReg_ctrl]
    obtain he | he | ⟨-, he | he⟩ := writeCtrl_cases v s <;> rw [he] <;> exact ⟨rfl, rfl⟩
  · obtain ⟨_, _, _, _, _, _, _, -, he⟩ := writeReg_of_ne_ctrl hk v s
    rw [he]
    exact ⟨rfl, rfl⟩

theorem MemoryOk.hostStep {act : HostAction} {s t : State} (h : MemoryOk s) (ha : hostStep act s = .next t) :
    MemoryOk t := by
  obtain ⟨-, hb⟩ | ⟨k, v, -, rfl⟩ | ⟨base, bs, -, -, hin, rfl⟩ | ⟨cells, -, rfl⟩ := hostStep_next ha
  · exact h.blockStep hb
  · obtain ⟨hbuf, hsize⟩ := writeReg_memory k v s
    exact h.congr hbuf hsize
  · exact h.writeBytes (.inr hin)
  · exact h.powerOnReset cells

/-- Settles O56: commands write only inside BUF because the ranges they check are as long as their outputs, and the
host's load and the power-on reset are bounded by MEM_SIZE. -/
theorem stepKeepsMemoryOk : Obligations.StepKeepsMemoryOk := by
  intro s t h hstep
  obtain ⟨-, hb⟩ | ⟨act, rest, -, ha⟩ := step_next hstep
  · exact h.blockStep hb
  · have hrest : MemoryOk { s with host := rest } := h.congr rfl rfl
    exact hrest.hostStep ha

/-! ## The bytes a command leaves as they were, and where the pointers go (10_state.md R35, R36) -/

/-- A pointer advanced past a run inside BUF stays in 32 bits: the run ends at the new pointer. -/
theorem pointer_advance_toNat {s : State} (h : MemoryOk s) {p : Word} {n : Nat} (hin : inRange s ⟨p, n⟩) :
    (p + BitVec.ofNat 32 n).toNat = p.toNat + n := by
  have hmax : s.memSize ≤ 2147483648 := h.sizeMax
  rw [BitVec.toNat_add, BitVec.toNat_ofNat]
  obtain rfl | hle : n = 0 ∨ p.toNat + n ≤ s.memSize := hin
  · simp [Nat.mod_eq_of_lt p.isLt]
  · omega

theorem pointer_advance_inside {s : State} (h : MemoryOk s) {p : Word} {n : Nat} (hin : inRange s ⟨p, n⟩) :
    p + BitVec.ofNat 32 n = p ∨
      p.toNat ≤ (p + BitVec.ofNat 32 n).toNat ∧ (p + BitVec.ofNat 32 n).toNat ≤ s.memSize := by
  rw [pointer_advance_toNat h hin]
  obtain rfl | hle : n = 0 ∨ p.toNat + n ≤ s.memSize := hin
  · exact .inl (by simp)
  · exact .inr ⟨Nat.le_add_right .., hle⟩

theorem Outputs.read_outside {pat col : List Byte} {s t : State} (h : MemoryOk s) (ho : Outputs pat col s t)
    {a : Nat} (hout : ¬ (s.outPtr.toNat ≤ a ∧ a < t.outPtr.toNat))
    (hcol : ¬ (s.colPtr.toNat ≤ a ∧ a < t.colPtr.toNat)) : t.buf.read a = s.buf.read a := by
  rw [ho.outPtr, pointer_advance_toNat h ho.patInside] at hout
  rw [ho.colPtr, pointer_advance_toNat h ho.colInside] at hcol
  rw [ho.buf, Memory.read_writeBytes_outside _ _ _ _ (by omega),
    Memory.read_writeBytes_outside _ _ _ _ (by omega)]

/-- Settles O45: SETOUT keeps BUF, and every other command outputs at the pointers, inside BUF. -/
theorem bufIsWrittenOnlyAtThePointers : Obligations.BufIsWrittenOnlyAtThePointers := by
  intro i s t hinv hx
  have hm : MemoryOk s := hinv.memory
  obtain ⟨out, col, rfl, rfl⟩ | ⟨pat, col, ho⟩ := exec_outputs hx
  · exact ⟨fun _ _ _ => rfl, .inl ⟨out, col, rfl⟩, exec_buf_of_not_output hx⟩
  · refine ⟨fun a => ho.read_outside hm, .inr ⟨?_, ?_⟩, exec_buf_of_not_output hx⟩
    · rw [ho.outPtr]
      exact pointer_advance_inside hm ho.patInside
    · rw [ho.colPtr]
      exact pointer_advance_inside hm ho.colInside

/-! ## What a host may read of BUF (20_memory.md R82) -/

theorem exec_memSize {i : Instr} {s t : State} (h : exec i s = .next t) : t.memSize = s.memSize := by
  obtain ⟨_, _, -, rfl⟩ | ⟨_, _, ho⟩ := exec_outputs h
  · rfl
  · exact ho.memSize

theorem blockStep_memSize {s t : State} (h : blockStep s = .next t) : t.memSize = s.memSize := by
  obtain ⟨-, rfl⟩ | ⟨-, e, -, rfl⟩ | ⟨-, i, -, hx⟩ := blockStep_next h
  · rfl
  · rfl
  · exact exec_memSize hx

theorem blockAhead_succ_of_blockStep {s t : State} (h : blockStep s = .next t) (n : Nat) :
    blockAhead (n + 1) s = blockAhead n t := by
  simp only [blockAhead, h]

theorem blockAhead_of_idle {s : State} (h : s.busy = false) (n : Nat) : blockAhead n s = s := by
  induction n with
  | zero => rfl
  | succ n ih =>
    have hstay : blockStep s = .next s := by simp [blockStep, h]
    rw [blockAhead_succ_of_blockStep hstay, ih]

theorem mayReadBuf_of_lt {s : State} {a : Nat} {v : Byte} (ha : a < s.memSize) :
    MayReadBuf s a v ↔ ∃ n, v = (blockAhead n s).buf.read a :=
  or_iff_right (Nat.not_le.2 ha)

theorem mayReadBuf_of_idle {s : State} {a : Nat} {v : Byte} (ha : a < s.memSize) (h : s.busy = false) :
    MayReadBuf s a v ↔ v = s.buf.read a := by
  simp [mayReadBuf_of_lt ha, blockAhead_of_idle h]

/-- The current byte is the one of zero further steps; one step more is a step fewer from the next state. -/
theorem mayReadBuf_of_blockStep {s t : State} {a : Nat} {v : Byte} (ha : a < s.memSize)
    (h : blockStep s = .next t) : MayReadBuf s a v ↔ v = s.buf.read a ∨ MayReadBuf t a v := by
  rw [mayReadBuf_of_lt ha, mayReadBuf_of_lt (blockStep_memSize h ▸ ha)]
  constructor
  · rintro ⟨_ | n, hv⟩
    · exact .inl hv
    · exact .inr ⟨n, blockAhead_succ_of_blockStep h n ▸ hv⟩
  · rintro (hv | ⟨n, hv⟩)
    · exact ⟨0, hv⟩
    · exact ⟨n + 1, (blockAhead_succ_of_blockStep h n).symm ▸ hv⟩

theorem step_of_no_host {s : State} (h : s.host = []) : step s = blockStep s := by
  simp only [step, agentStep, h]

/-- Settles O54: an idle block has no further boundary, a busy one those of the next state, and past MEM_SIZE every
byte is admitted. -/
theorem hostReadsOfBufAreDrawnFromBoundaries : Obligations.HostReadsOfBufAreDrawnFromBoundaries := by
  intro s a v hhost
  refine ⟨mayReadBuf_of_idle, fun ha _ t ht => ?_, .inl⟩
  rw [step_of_no_host hhost] at ht
  exact mayReadBuf_of_blockStep ha ht

end Sys2Proof.Machine
end

section
/-! PROOFS. The encoding: the fields of W0, decoding and encoding as inverses of each other, and the word a rejection
names (30_encoding.md R100 to R109). -/

namespace Sys2Proof

/-! ## Words from their parts (30_encoding.md R100 to R102) -/

@[simp] theorem lowHalf_append (x y : Half) : lowHalf (x ++ y) = y := BitVec.extractLsb'_append_eq_right

@[simp] theorem highHalf_append (x y : Half) : highHalf (x ++ y) = x := BitVec.extractLsb'_append_eq_left

@[simp] theorem highHalf_append_lowHalf (w : Word) : highHalf w ++ lowHalf w = w :=
  BitVec.extractLsb'_append_extractLsb'

@[simp] theorem wordOfBytes_extract (w : Word) :
    wordOfBytes (w.extractLsb' 0 8) (w.extractLsb' 8 8) (w.extractLsb' 16 8) (w.extractLsb' 24 8) = w := by
  simp (disch := decide) only [wordOfBytes, BitVec.extractLsb'_append_extractLsb'_eq_extractLsb']
  exact BitVec.extractLsb'_eq_self

theorem descriptorOfBytes_bytesOfDescriptor (d : Descriptor) : descriptorOfBytes (bytesOfDescriptor d) = some d := by
  simp [descriptorOfBytes, bytesOfDescriptor, bytesOfWord]

theorem decodeBytes_bytesOfDescriptor (d : Descriptor) : decodeBytes (bytesOfDescriptor d) = decode d := by
  have htake : (bytesOfDescriptor d).take Config.commandBytes = bytesOfDescriptor d := rfl
  simp only [decodeBytes, htake, descriptorOfBytes_bytesOfDescriptor]

theorem reservedClear_iff (w : Word) :
    reservedClear w = true ↔ w.extractLsb' 14 2 = 0#2 ∧ w.extractLsb' 18 14 = 0#14 := by
  simp [reservedClear]

theorem getLsbD_of_reservedClear {w : Word} (hw : reservedClear w = true) {k : Nat}
    (hk : k = 14 ∨ k = 15 ∨ 18 ≤ k ∧ k < 32) : w.getLsbD k = false := by
  obtain ⟨hlow, hhigh⟩ := (reservedClear_iff w).1 hw
  have low : ∀ j < 2, w.getLsbD (14 + j) = false := fun j hj => by
    simpa [hj] using congrArg (·.getLsbD j) hlow
  have high : ∀ j < 14, w.getLsbD (18 + j) = false := fun j hj => by
    simpa [hj] using congrArg (·.getLsbD j) hhigh
  obtain rfl | rfl | ⟨hle, hlt⟩ := hk
  · exact low 0 (by decide)
  · exact low 1 (by decide)
  · simpa [Nat.add_sub_cancel' hle] using high (k - 18) (by omega)

theorem ofBool_getLsbD (w : Word) (k : Nat) : BitVec.ofBool (w.getLsbD k) = w.extractLsb' k 1 := by
  ext i hi
  obtain rfl : i = 0 := by omega
  simp

/-- A W0 whose reserved bits are 0 is its fields packed again. -/
theorem packHead_fields {w : Word} (hw : reservedClear w = true) :
    packHead (opField w) (fField w) (sField w) (x0Field w) (x1Field w) = w := by
  obtain ⟨hlow, hhigh⟩ := (reservedClear_iff w).1 hw
  simp only [packHead, opField, fField, sField, x0Field, x1Field, ofBool_getLsbD, ← hlow, ← hhigh]
  simp (disch := decide) only [BitVec.extractLsb'_append_extractLsb'_eq_extractLsb']
  exact BitVec.extractLsb'_eq_self

theorem packHead_toNat_mod (op : Byte) (f : BitVec 4) (s : BitVec 2) (x0 x1 : Bool) :
    (packHead op f s x0 x1).toNat % 256 = op.toNat := by
  have hop : op.toNat < 256 := op.isLt
  rw [packHead, Machine.toNat_append_eq_add]
  omega

/-! ## The fields of a legal W0, read off its head (30_encoding.md R103, R104) -/

/-- F of a tile layout (30_encoding.md R107). -/
def TileLayout.code : TileLayout → BitVec 4
  | .planar2 => 0#4
  | .inter2 => 1#4
  | .nib4h => 2#4
  | .nib4l => 3#4
  | .bp4 => 4#4
  | .lin8 => 5#4
  | .mono1 | .mono1T16 | .mono1T16Rows => 6#4

/-- X0 of a tile layout. -/
def TileLayout.t16 : TileLayout → Bool
  | .mono1T16 | .mono1T16Rows => true
  | _ => false

/-- X1 of a tile layout. -/
def TileLayout.rows : TileLayout → Bool
  | .mono1T16Rows => true
  | _ => false

/-- F of a palette format (30_encoding.md R108). -/
def PalFormat.code : PalFormat → BitVec 4
  | .sms => 0#4
  | .gen | .genHf => 1#4
  | .bgr555 => 2#4
  | .msx2 => 3#4
  | .fixed => 4#4

/-- X0 of a palette format. -/
def PalFormat.hf : PalFormat → Bool
  | .genHf => true
  | _ => false

/-- OP of a head (30_encoding.md R103). -/
def Head.opcode : Head → Byte
  | .endStream => 0x00#8
  | .nop => 0x01#8
  | .setout => 0x02#8
  | .qsnap _ => 0x10#8
  | .qton _ => 0x11#8
  | .qexp _ => 0x12#8
  | .qfix => 0x13#8
  | .mapclr => 0x20#8
  | .mapbuild => 0x21#8
  | .maplook => 0x22#8
  | .tile _ => 0x30#8
  | .frame _ => 0x31#8
  | .pal _ _ => 0x40#8

/-- F of a head: a bit depth, a format code, or 0. -/
def Head.code : Head → BitVec 4
  | .qsnap b | .qton b | .qexp b => b
  | .tile L | .frame L => L.code
  | .pal p _ => p.code
  | _ => 0#4

/-- S of a head. -/
def Head.slotCode : Head → BitVec 2
  | .pal _ s => s.code
  | _ => 0#2

/-- X0 of a head. -/
def Head.x0 : Head → Bool
  | .tile L | .frame L => L.t16
  | .pal p _ => p.hf
  | _ => false

/-- X1 of a head. -/
def Head.x1 : Head → Bool
  | .tile L | .frame L => L.rows
  | _ => false

/-- The bit depth of a head that has one is 1..8. -/
def Head.check : Head → Bool
  | .qsnap b | .qton b | .qexp b => legalDepth b
  | _ => true

/-- The W0 of a head. -/
def Head.word (h : Head) : Word := packHead h.opcode h.code h.slotCode h.x0 h.x1

/-- Every field of W0 holds what the head says. -/
structure Head.Reads (h : Head) (w0 : Word) : Prop where
  opcode : opField w0 = h.opcode
  code : fField w0 = h.code
  slotCode : sField w0 = h.slotCode
  x0 : x0Field w0 = h.x0
  x1 : x1Field w0 = h.x1
  check : h.check = true

theorem layoutOfCode_eq_some {f : BitVec 4} {t16 rows : Bool} {L : TileLayout} :
    layoutOfCode f t16 rows = some L → f = L.code ∧ t16 = L.t16 ∧ rows = L.rows := by
  revert f t16 rows
  cases L <;> decide

theorem palFormatOfCode_eq_some {f : BitVec 4} {hf : Bool} {p : PalFormat} :
    palFormatOfCode f hf = some p → f = p.code ∧ hf = p.hf := by
  revert f hf
  cases p <;> decide

theorem slotCountOfCode_eq_some {s : BitVec 2} {n : SlotCount} : slotCountOfCode s = some n → s = n.code := by
  revert s
  cases n <;> decide

theorem plainHead_eq_some {w0 : Word} {k h : Head} (hp : plainHead w0 k = some h) :
    fField w0 = 0#4 ∧ sField w0 = 0#2 ∧ x0Field w0 = false ∧ x1Field w0 = false ∧ k = h := by
  simpa [plainHead, and_assoc] using hp

theorem depthHead_eq_some {w0 : Word} {k : BitVec 4 → Head} {h : Head} (hp : depthHead w0 k = some h) :
    legalDepth (fField w0) = true ∧ sField w0 = 0#2 ∧ x0Field w0 = false ∧ x1Field w0 = false ∧
      k (fField w0) = h := by
  simpa [depthHead, and_assoc] using hp

theorem layoutHead_eq_some {w0 : Word} {k : TileLayout → Head} {h : Head} (hp : layoutHead w0 k = some h) :
    ∃ L : TileLayout, fField w0 = L.code ∧ sField w0 = 0#2 ∧ x0Field w0 = L.t16 ∧ x1Field w0 = L.rows ∧ h = k L := by
  unfold layoutHead at hp
  split at hp
  · next hs =>
    obtain ⟨L, hL, rfl⟩ := Option.map_eq_some_iff.1 hp
    obtain ⟨hf, ht16, hrows⟩ := layoutOfCode_eq_some hL
    exact ⟨L, hf, hs, ht16, hrows, rfl⟩
  · contradiction

theorem palHead_eq_some {w0 : Word} {h : Head} (hp : palHead w0 = some h) :
    ∃ (p : PalFormat) (n : SlotCount), fField w0 = p.code ∧ sField w0 = n.code ∧ x0Field w0 = p.hf ∧
      x1Field w0 = false ∧ h = .pal p n := by
  unfold palHead at hp
  split at hp
  · next hx1 =>
    split at hp
    · next p n hformat hslots =>
      obtain ⟨hf, hhf⟩ := palFormatOfCode_eq_some hformat
      exact ⟨p, n, hf, slotCountOfCode_eq_some hslots, hhf, hx1, (Option.some.inj hp).symm⟩
    · contradiction
  · contradiction

/-- A W0 that decodes has its reserved bits 0, and its fields are those of the head it decodes to. -/
theorem decodeHead_eq_some {w0 : Word} {h : Head} (hd : decodeHead w0 = some h) :
    reservedClear w0 = true ∧ h.Reads w0 := by
  unfold decodeHead at hd
  split at hd
  case isFalse => contradiction
  case isTrue hclear =>
    refine ⟨hclear, ?_⟩
    split at hd
    case h_1 hop | h_2 hop | h_3 hop | h_7 hop | h_8 hop | h_9 hop | h_10 hop =>
      obtain ⟨hf, hs, hx0, hx1, rfl⟩ := plainHead_eq_some hd
      exact ⟨BitVec.eq_of_toNat_eq hop, hf, hs, hx0, hx1, rfl⟩
    case h_4 hop | h_5 hop | h_6 hop =>
      obtain ⟨hdepth, hs, hx0, hx1, rfl⟩ := depthHead_eq_some hd
      exact ⟨BitVec.eq_of_toNat_eq hop, rfl, hs, hx0, hx1, hdepth⟩
    case h_11 hop | h_12 hop =>
      obtain ⟨L, hf, hs, hx0, hx1, rfl⟩ := layoutHead_eq_some hd
      exact ⟨BitVec.eq_of_toNat_eq hop, hf, hs, hx0, hx1, rfl⟩
    case h_13 hop =>
      obtain ⟨p, n, hf, hs, hx0, hx1, rfl⟩ := palHead_eq_some hd
      exact ⟨BitVec.eq_of_toNat_eq hop, hf, hs, hx0, hx1, rfl⟩
    case h_14 => contradiction

/-- A W0 that decodes is the one word of its head. -/
theorem eq_word_of_decodeHead {w0 : Word} {h : Head} (hd : decodeHead w0 = some h) : w0 = h.word := by
  obtain ⟨hclear, hr⟩ := decodeHead_eq_some hd
  rw [Head.word, ← hr.opcode, ← hr.code, ← hr.slotCode, ← hr.x0, ← hr.x1, packHead_fields hclear]

/-- The opcode of a W0 that decodes is one of the thirteen of 30_encoding.md R103. -/
theorem opcode_mem_of_decodeHead {w0 : Word} {h : Head} (hd : decodeHead w0 = some h) :
    w0.toNat % 256 ∈ [0x00, 0x01, 0x02, 0x10, 0x11, 0x12, 0x13, 0x20, 0x21, 0x22, 0x30, 0x31, 0x40] := by
  rw [eq_word_of_decodeHead hd, Head.word, packHead_toNat_mod]
  cases h <;> simp [Head.opcode]

/-! ## What decoding answers (30_encoding.md R105, R106) -/

theorem decode_of_illegal_head {d : Descriptor} (hd : decodeHead d.w0 = none) : decode d = .error .illegalW0 := by
  simp only [decode, hd]

theorem decode_of_badOperand {d : Descriptor} {h : Head} {r : Reject} (hd : decodeHead d.w0 = some h)
    (hbad : badOperand h d = some r) : decode d = .error r := by
  simp only [decode, hd, hbad]

theorem decode_of_legal {d : Descriptor} {h : Head} (hd : decodeHead d.w0 = some h)
    (hgood : badOperand h d = none) : decode d = .ok (h.command d) := by
  simp only [decode, hd, hgood]

theorem decode_eq_ok {d : Descriptor} {i : Instr} (hd : decode d = .ok i) :
    ∃ h, decodeHead d.w0 = some h ∧ badOperand h d = none ∧ i = h.command d := by
  unfold decode at hd
  split at hd
  · contradiction
  · next h hh =>
    split at hd
    · contradiction
    · next hgood => exact ⟨h, hh, hgood, (Except.ok.inj hd).symm⟩

theorem badOperand_eq_none_iff {h : Head} {d : Descriptor} :
    badOperand h d = none ↔ (h.zeroWords.1 = true → d.w1 = 0#32) ∧ (h.zeroWords.2.1 = true → d.w2 = 0#32) ∧
      (h.zeroWords.2.2 = true → d.w3 = 0#32) := by
  simp [badOperand, ite_eq_iff]

/-- The operand words are checked in the order W1, W2, W3: each rejection says that the words before it are legal. -/
theorem badOperand_cases (h : Head) (d : Descriptor) :
    (badOperand h d = some .illegalW1 ∧ d.w1 ≠ 0#32) ∨
    (badOperand h d = some .illegalW2 ∧ d.w2 ≠ 0#32 ∧ (h.zeroWords.1 = true → d.w1 = 0#32)) ∨
    (badOperand h d = some .illegalW3 ∧ d.w3 ≠ 0#32 ∧ (h.zeroWords.1 = true → d.w1 = 0#32) ∧
      (h.zeroWords.2.1 = true → d.w2 = 0#32)) ∨
    badOperand h d = none := by
  unfold badOperand
  split
  · next h1 => exact .inl ⟨rfl, h1.2⟩
  · next h1 =>
    split
    · next h2 => exact .inr (.inl ⟨rfl, h2.2, by simpa using h1⟩)
    · next h2 =>
      split
      · next h3 => exact .inr (.inr (.inl ⟨rfl, h3.2, by simpa using h1, by simpa using h2⟩))
      · exact .inr (.inr (.inr rfl))

/-- Settles O4: a W0 that decodes has a known opcode and its reserved bits 0. -/
theorem unknownOpcodeOrReservedBitIsIllegal : Obligations.UnknownOpcodeOrReservedBitIsIllegal := by
  intro d hbad
  cases hd : decodeHead d.w0 with
  | none => exact decode_of_illegal_head hd
  | some h =>
    obtain hop | ⟨k, hk, hbit⟩ := hbad
    · exact absurd (opcode_mem_of_decodeHead hd) hop
    · have hzero := getLsbD_of_reservedClear (decodeHead_eq_some hd).1 hk
      exact absurd hbit (by simp [hzero])

/-- Settles O5, by the order in which `badOperand` checks the operand words. -/
theorem firstIllegalWordIsNamed : Obligations.FirstIllegalWordIsNamed := by
  intro w0 w1 w2 w3
  cases hd : decodeHead w0 with
  | none =>
    have hill (a b c : Word) : decode ⟨w0, a, b, c⟩ = .error .illegalW0 := decode_of_illegal_head hd
    simp [hill]
  | some h =>
    have hok {a b c : Word} (ha : h.zeroWords.1 = true → a = 0#32) (hb : h.zeroWords.2.1 = true → b = 0#32)
        (hc : h.zeroWords.2.2 = true → c = 0#32) : ∃ i, decode ⟨w0, a, b, c⟩ = .ok i :=
      ⟨_, decode_of_legal hd (badOperand_eq_none_iff.2 ⟨ha, hb, hc⟩)⟩
    obtain ⟨hbad, h1⟩ | ⟨hbad, h2, hw1⟩ | ⟨hbad, h3, hw1, hw2⟩ | hgood := badOperand_cases h ⟨w0, w1, w2, w3⟩
    · rw [decode_of_badOperand (d := ⟨w0, w1, w2, w3⟩) hd hbad]
      exact ⟨nofun, fun _ => ⟨h1, hok (fun _ => rfl) (fun _ => rfl) (fun _ => rfl)⟩, nofun, nofun, nofun⟩
    · rw [decode_of_badOperand (d := ⟨w0, w1, w2, w3⟩) hd hbad]
      exact ⟨nofun, nofun, fun _ => ⟨h2, hok hw1 (fun _ => rfl) (fun _ => rfl)⟩, nofun, nofun⟩
    · rw [decode_of_badOperand (d := ⟨w0, w1, w2, w3⟩) hd hbad]
      exact ⟨nofun, nofun, nofun, fun _ => ⟨h3, hok hw1 hw2 (fun _ => rfl)⟩, nofun⟩
    · rw [decode_of_legal (d := ⟨w0, w1, w2, w3⟩) hd hgood]
      exact ⟨nofun, nofun, nofun, nofun, nofun⟩

/-! ## Encoding (30_encoding.md R101, R102) -/

theorem encode_tileInstr (L : TileLayout) (fb : Word) (w h tx ty : Half) :
    encode (tileInstr L fb w h tx ty) = tileDescriptor (Head.tile L).word fb w h tx ty := by
  cases L <;> rfl

theorem encode_frameInstr (L : TileLayout) (fb : Word) (w h : Half) :
    encode (frameInstr L fb w h) = frameDescriptor (Head.frame L).word fb w h := by
  cases L <;> rfl

theorem encode_palInstr (p : PalFormat) (n : SlotCount) :
    encode (palInstr p n) = palDescriptor (Head.pal p n).word := by
  cases p <;> rfl

theorem check_command (h : Head) (d : Descriptor) : (h.command d).check = h.check := by
  cases h with
  | tile L => cases L <;> rfl
  | frame L => cases L <;> rfl
  | pal p n => cases p <;> rfl
  | _ => rfl

/-- A command built from legal operand words encodes to its head's word and those words. -/
theorem encode_command {h : Head} {d : Descriptor} (hgood : badOperand h d = none) :
    encode (h.command d) = ⟨h.word, d.w1, d.w2, d.w3⟩ := by
  obtain ⟨h1, h2, h3⟩ := badOperand_eq_none_iff.1 hgood
  cases h with
  | tile L => simp [Head.command, encode_tileInstr, tileDescriptor]
  | frame L => simp [Head.command, encode_frameInstr, frameDescriptor, h3 rfl]
  | pal p n => simp [Head.command, encode_palInstr, palDescriptor, h1 rfl, h2 rfl, h3 rfl]
  | setout | mapbuild => rw [h3 rfl]; rfl
  | qsnap | qton | qexp | qfix | maplook => rw [h2 rfl, h3 rfl]; rfl
  | endStream | nop | mapclr => rw [h1 rfl, h2 rfl, h3 rfl]; rfl

/-- Settles O2: the head fixes W0, and the operand words are the command's own. -/
theorem encodeOfDecode : Obligations.EncodeOfDecode := by
  intro d i hd
  obtain ⟨h, hh, hgood, rfl⟩ := decode_eq_ok hd
  refine ⟨(check_command h d).trans (decodeHead_eq_some hh).2.check, ?_⟩
  rw [encode_command hgood, ← eq_word_of_decodeHead hh]

/-! ## Decoding an encoding -/

open Laws in
/-- The decoder reads the head of every well-formed command from its W0. -/
theorem decodeHead_encode (i : Instr) (hi : i.WellFormed) : decodeHead (encode i).w0 = some (headOf i) :=
  match i with
  | .endStream => HeadRoundTrip.endStream hi
  | .nop => HeadRoundTrip.nop hi
  | .setout .. => HeadRoundTrip.setout _ _ hi
  | .qsnap .. => HeadRoundTrip.qsnap _ _ hi
  | .qton .. => HeadRoundTrip.qton _ _ hi
  | .qexp .. => HeadRoundTrip.qexp _ _ hi
  | .qfix .. => HeadRoundTrip.qfix _ hi
  | .mapclr => HeadRoundTrip.mapclr hi
  | .mapbuild .. => HeadRoundTrip.mapbuild _ _ hi
  | .maplook .. => HeadRoundTrip.maplook _ hi
  | .tilePlanar2 .. => HeadRoundTrip.tilePlanar2 _ _ _ _ _ hi
  | .tileInter2 .. => HeadRoundTrip.tileInter2 _ _ _ _ _ hi
  | .tileNib4h .. => HeadRoundTrip.tileNib4h _ _ _ _ _ hi
  | .tileNib4l .. => HeadRoundTrip.tileNib4l _ _ _ _ _ hi
  | .tileBp4 .. => HeadRoundTrip.tileBp4 _ _ _ _ _ hi
  | .tileLin8 .. => HeadRoundTrip.tileLin8 _ _ _ _ _ hi
  | .tileMono1 .. => HeadRoundTrip.tileMono1 _ _ _ _ _ hi
  | .tileMono1T16 .. => HeadRoundTrip.tileMono1T16 _ _ _ _ _ hi
  | .tileMono1T16Rows .. => HeadRoundTrip.tileMono1T16Rows _ _ _ _ _ hi
  | .framePlanar2 .. => HeadRoundTrip.framePlanar2 _ _ _ hi
  | .frameInter2 .. => HeadRoundTrip.frameInter2 _ _ _ hi
  | .frameNib4h .. => HeadRoundTrip.frameNib4h _ _ _ hi
  | .frameNib4l .. => HeadRoundTrip.frameNib4l _ _ _ hi
  | .frameBp4 .. => HeadRoundTrip.frameBp4 _ _ _ hi
  | .frameLin8 .. => HeadRoundTrip.frameLin8 _ _ _ hi
  | .frameMono1 .. => HeadRoundTrip.frameMono1 _ _ _ hi
  | .frameMono1T16 .. => HeadRoundTrip.frameMono1T16 _ _ _ hi
  | .frameMono1T16Rows .. => HeadRoundTrip.frameMono1T16Rows _ _ _ hi
  | .palSms _ => HeadRoundTrip.palSms _ hi
  | .palGen _ => HeadRoundTrip.palGen _ hi
  | .palBgr555 _ => HeadRoundTrip.palBgr555 _ hi
  | .palMsx2 _ => HeadRoundTrip.palMsx2 _ hi
  | .palFixed _ => HeadRoundTrip.palFixed _ hi
  | .palGenHf _ => HeadRoundTrip.palGenHf _ hi

theorem headOf_tileInstr (L : TileLayout) (fb : Word) (w h tx ty : Half) :
    Laws.headOf (tileInstr L fb w h tx ty) = .tile L := by
  cases L <;> rfl

theorem headOf_frameInstr (L : TileLayout) (fb : Word) (w h : Half) :
    Laws.headOf (frameInstr L fb w h) = .frame L := by
  cases L <;> rfl

theorem headOf_palInstr (p : PalFormat) (n : SlotCount) : Laws.headOf (palInstr p n) = .pal p n := by
  cases p <;> rfl

/-- The operand words of an encoding are legal, and the command reads its operands back from them. -/
theorem operands_encode (i : Instr) :
    badOperand (Laws.headOf i) (encode i) = none ∧ (Laws.headOf i).command (encode i) = i := by
  rw [badOperand_eq_none_iff]
  cases i using Instr.familyCases with
  | tile L fb w h tx ty => simp [headOf_tileInstr, encode_tileInstr, tileDescriptor, Head.zeroWords, Head.command]
  | frame L fb w h => simp [headOf_frameInstr, encode_frameInstr, frameDescriptor, Head.zeroWords, Head.command]
  | pal p n => simp [headOf_palInstr, encode_palInstr, palDescriptor, Head.zeroWords, Head.command]
  | _ => simp [Laws.headOf, encode, Head.zeroWords, Head.command]

/-- W0 gives the head back and the other words the operands. -/
theorem decode_encode {i : Instr} (hi : i.WellFormed) : decode (encode i) = .ok i := by
  obtain ⟨hgood, hcommand⟩ := operands_encode i
  rw [decode_of_legal (decodeHead_encode i hi) hgood, hcommand]

/-- Settles O1: the words give the command back, and the bytes the words. -/
theorem decodeOfEncode : Obligations.DecodeOfEncode := fun i hi =>
  ⟨decode_encode hi, (decodeBytes_bytesOfDescriptor (encode i)).trans (decode_encode hi)⟩

end Sys2Proof

namespace Sys2Proof.Machine

/-! ## The assembler (30_encoding.md R113 to R115) -/

/-- Settles O3: each line of R115 is assembled and its words are decoded. -/
theorem workedEncodings : Obligations.WorkedEncodings := ⟨by decide, by decide⟩

theorem assembleCommand_qsnap (b c : Nat) : assembleCommand "qsnap".toList [b, c] = depthAndWord .qsnap [b, c] :=
  (rfl)

/-- With a legal depth fixed, a quantizer command takes one word. -/
theorem depthAndWord_of_legal (f : BitVec 4 → Word → Instr) {b : Nat} (hlow : 1 ≤ b) (hhigh : b ≤ 8) (c : Nat) :
    depthAndWord f [b, c] = oneWord (f (BitVec.ofNat 4 b)) [c] := by
  simp only [depthAndWord, oneWord, asDepth, hlow, hhigh, and_self, if_true, Option.bind_eq_bind, Option.bind_some]
  cases asWord c <;> rfl

/-- `qsnap` with a legal depth is the one-word command that the pseudo-instructions of R114 name. -/
theorem oneWord_qsnap {b : Nat} (hlow : 1 ≤ b) (hhigh : b ≤ 8) (c : Nat) :
    oneWord (.qsnap (BitVec.ofNat 4 b)) [c] = assembleCommand "qsnap".toList [b, c] := by
  rw [assembleCommand_qsnap, depthAndWord_of_legal _ hlow hhigh]

/-- Settles O6: a pseudo-instruction and its expansion name the same builder; only for QSNAP does the expansion give
the depth as an operand. -/
theorem pseudoInstructionsExpand : Obligations.PseudoInstructionsExpand := by
  intro c fb w h n
  have qsnap (b : Nat) (hlow : 1 ≤ b) (hhigh : b ≤ 8) := oneWord_qsnap hlow hhigh c
  exact ⟨qsnap 5 (by decide) (by decide), qsnap 4 (by decide) (by decide), qsnap 3 (by decide) (by decide),
    qsnap 2 (by decide) (by decide), qsnap 8 (by decide) (by decide), rfl, rfl, rfl, rfl, rfl, rfl, rfl, rfl, rfl,
    rfl, rfl⟩

end Sys2Proof.Machine
end

section
/-! PROOFS. The command stream: what a fetch answers in each of its cases, what a step then does, the placing of a
command, END, NOP and SETOUT, and that every stream stops (40_stream_control.md R140 to R144). -/

namespace Sys2Proof.Machine

/-! ## What a fetch answers (40_stream_control.md R140, 30_encoding.md R100, R105) -/

theorem inRange_fetchRange {s : State} : inRange s (fetchRange s) ↔ s.cmdPtr.toNat + 16 ≤ s.memSize := by
  simp [inRange, fetchRange, Config.commandBytes]

theorem checkRange_fetchRange_of_lt {s : State} (h : s.memSize < s.cmdPtr.toNat + 16) :
    checkRange s (fetchRange s) = .error ⟨.bounds, s.cmdPtr, 16#32⟩ :=
  checkRange_eq_error.2 ⟨fun hin => Nat.not_le.2 h (inRange_fetchRange.1 hin), rfl⟩

theorem fetch_of_misaligned {s : State} (h : s.cmdPtr.toNat % 4 ≠ 0) :
    fetch s = .error ⟨.align, s.cmdPtr, 0#32⟩ := by
  have halign : fetchAligned s = false := by simp [fetchAligned, h]
  simp only [fetch, halign, if_true]
  rfl

theorem fetch_of_past_end {s : State} (halign : s.cmdPtr.toNat % 4 = 0)
    (h : s.memSize < s.cmdPtr.toNat + 16) : fetch s = .error ⟨.bounds, s.cmdPtr, 16#32⟩ := by
  simp only [fetch, fetchAligned_eq.2 halign, checkRange_fetchRange_of_lt h, Bool.true_eq_false, if_false]
  rfl

theorem fetch_of_reject {s : State} {r : Reject} (halign : s.cmdPtr.toNat % 4 = 0)
    (hin : s.cmdPtr.toNat + 16 ≤ s.memSize) (hd : decode (fetchDescriptor s) = .error r) :
    fetch s = .error ⟨.illegal, (fetchDescriptor s).w0, r.index⟩ := by
  have hrange : checkRange s (fetchRange s) = .ok () := checkRange_eq_ok.2 (inRange_fetchRange.2 hin)
  simp only [fetch, fetchAligned_eq.2 halign, hrange, hd, Bool.true_eq_false, if_false]
  rfl

/-- The sixteen bytes from an address on decode as the four little-endian words there (20_memory.md R71). -/
theorem decodeBytes_read (m : Memory) (a : Nat) :
    decodeBytes ((List.range 16).map fun k => m.read (a + k)) =
      decode ⟨m.readWord a, m.readWord (a + 4), m.readWord (a + 8), m.readWord (a + 12)⟩ := rfl

/-! ## What a step of a running stream does -/

theorem blockStep_of_idle {s : State} (h : s.busy = false) : blockStep s = .next s := by
  simp [blockStep, h]

theorem step_of_fetch_error {s : State} {e : Err} (hhost : s.host = []) (hbusy : s.busy = true)
    (hf : fetch s = .error e) : step s = .next (abort e s) := by
  simp only [step_of_no_host hhost, blockStep, hbusy, hf, if_true]

theorem step_of_fetch_ok {s : State} {i : Instr} (hhost : s.host = []) (hbusy : s.busy = true)
    (hf : fetch s = .ok i) : step s = exec i s := by
  simp only [step_of_no_host hhost, blockStep, hbusy, hf, if_true]

/-- Settles O10: the idle block has no step. -/
theorem idleStepChangesNothing : Obligations.IdleStepChangesNothing := fun _ hhost hidle =>
  (step_of_no_host hhost).trans (blockStep_of_idle hidle)

/-- Settles O7: the sixteen bytes are the fetched descriptor. -/
theorem stepRunsTheDecodedCommand : Obligations.StepRunsTheDecodedCommand := by
  intro s i hhost hbusy halign hin hd
  rw [decodeBytes_read] at hd
  exact step_of_fetch_ok hhost hbusy (fetch_eq_ok.2 ⟨halign, inRange_fetchRange.2 hin, hd⟩)

/-- Settles O9: one fetch error per clause; the abort of its error is the state stated. -/
theorem fetchErrorsInOrder : Obligations.FetchErrorsInOrder := by
  intro s hhost hbusy
  refine ⟨fun h => step_of_fetch_error hhost hbusy (fetch_of_misaligned h),
    fun halign h => step_of_fetch_error hhost hbusy (fetch_of_past_end halign h), ?_⟩
  rintro halign hin _ _ _ _ k rfl rfl rfl rfl hmem
  have illegal (r : Reject) (hd : decode (fetchDescriptor s) = .error r) :
      step s = .next (abortedState .illegal (fetchDescriptor s).w0 r.index s) :=
    step_of_fetch_error hhost hbusy (fetch_of_reject halign hin hd)
  simp only [List.mem_cons, Prod.mk.injEq, List.not_mem_nil, or_false] at hmem
  obtain ⟨rfl, hd⟩ | ⟨rfl, hd⟩ | ⟨rfl, hd⟩ | ⟨rfl, hd⟩ := hmem <;> exact illegal _ hd

/-! ## Placing a command (log 14) -/

/-- The bytes read back from a run just written are the run. -/
theorem Memory.map_read_writeBytes (bs : List Byte) (m : Memory) (a : Nat) :
    ((List.range bs.length).map fun k => (m.writeBytes a bs).read (a + k)) = bs :=
  List.ext_getElem (by simp) fun k _ hk => by simp [Memory.read_writeBytes_inside bs m a k hk]

theorem fetchable_iff {s : State} :
    fetchable s = true ↔ s.cmdPtr.toNat % 4 = 0 ∧ s.cmdPtr.toNat + 16 ≤ s.memSize := by
  rw [fetchable, Bool.and_eq_true, fetchAligned_eq, decide_eq_true_iff, inRange_fetchRange]

@[simp] theorem placeCommand_host (bs : List Byte) (s : State) : (placeCommand bs s).host = [] := rfl

theorem busy_of_started (s : State) : (if s.busy then s else start s).busy = true := by
  split
  · assumption
  · rfl

@[simp] theorem placeCommand_busy (bs : List Byte) (s : State) : (placeCommand bs s).busy = true :=
  busy_of_started _

@[simp] theorem placeCommand_memSize (bs : List Byte) (s : State) : (placeCommand bs s).memSize = s.memSize := by
  simp only [placeCommand]
  split <;> split <;> rfl

theorem placeCommand_cmdPtr (bs : List Byte) (s : State) :
    (placeCommand bs s).cmdPtr = if fetchable s then s.cmdPtr else 0#32 := by
  simp only [placeCommand]
  split <;> split <;> rfl

theorem placeCommand_buf (bs : List Byte) (s : State) :
    (placeCommand bs s).buf = s.buf.writeBytes (placeCommand bs s).cmdPtr.toNat bs := by
  simp only [placeCommand]
  split <;> split <;> rfl

/-- A command is placed where it can be fetched. -/
theorem placeCommand_fetchable {s : State} (h : 16 ≤ s.memSize) (bs : List Byte) :
    (placeCommand bs s).cmdPtr.toNat % 4 = 0 ∧ (placeCommand bs s).cmdPtr.toNat + 16 ≤ s.memSize := by
  rw [placeCommand_cmdPtr]
  split
  · exact fetchable_iff.1 ‹_›
  · simpa using h

/-- Settles O8: the bytes placed are read back, decode to the command, and the step runs it (O7). -/
theorem placedCommandRunsNext : Obligations.PlacedCommandRunsNext := by
  intro i s hi hsize
  obtain ⟨halign, hin⟩ := placeCommand_fetchable hsize (encodeBytes i)
  refine stepRunsTheDecodedCommand _ i (placeCommand_host ..) (placeCommand_busy ..) halign
    (by rwa [placeCommand_memSize]) ?_
  rw [placeCommand_buf]
  exact (congrArg decodeBytes (Memory.map_read_writeBytes (encodeBytes i) _ _)).trans (decodeOfEncode i hi).2

/-! ## END, NOP and SETOUT (40_stream_control.md R141 to R143) -/

/-- Where one head alone has the opcode of a descriptor, the descriptor is rejected unless it is the encoding of the
command that this head reads from it. -/
theorem decode_rejects_of_only_head {d : Descriptor} {h : Head} {i : Instr}
    (honly : ∀ k : Head, k.opcode.toNat = d.w0.toNat % 256 → k = h) (hcommand : h.command d = i)
    (hne : d ≠ encode i) : ∃ r, decode d = .error r := by
  cases hd : decode d with
  | error r => exact ⟨r, rfl⟩
  | ok j =>
    obtain ⟨k, hk, -, rfl⟩ := decode_eq_ok hd
    obtain rfl : k = h := honly k (by rw [eq_word_of_decodeHead hk, Head.word, packHead_toNat_mod])
    obtain ⟨-, hencode⟩ := encodeOfDecode d _ hd
    exact absurd hencode.symm (hcommand ▸ hne)

theorem head_eq_endStream {k : Head} (h : k.opcode.toNat = 0) : k = .endStream := by
  cases k with
  | endStream => rfl
  | _ => cases h

theorem head_eq_nop {k : Head} (h : k.opcode.toNat = 1) : k = .nop := by
  cases k with
  | nop => rfl
  | _ => cases h

/-- Settles O11: no other head has OP = 0x00, and END takes no operand. -/
theorem endStopsTheStream : Obligations.EndStopsTheStream :=
  ⟨fun _ => ⟨rfl, by simp [irq]⟩, decode_encode (i := .endStream) rfl, fun _ hop hne =>
    decode_rejects_of_only_head (h := .endStream) (fun _ hk => head_eq_endStream (hk.trans hop)) rfl hne⟩

/-- Settles O12: no other head has OP = 0x01, and NOP takes no operand. -/
theorem nopOnlyAdvances : Obligations.NopOnlyAdvances :=
  ⟨fun _ => rfl, decode_encode (i := .nop) rfl, fun _ hop hne =>
    decode_rejects_of_only_head (h := .nop) (fun _ hk => head_eq_nop (hk.trans hop)) rfl hne⟩

/-- Settles O13: SETOUT's body is `setPointers`, and the common advance follows. -/
theorem setoutSetsBothPointers : Obligations.SetoutSetsBothPointers := fun out col s =>
  complete_ok s (setPointers out col s)

/-! ## Every stream stops (40_stream_control.md R144) -/

/-- No body writes CMD_PTR, MEM_SIZE or the host's list: CMD_PTR moves by the common advance alone. -/
theorem Completes.keeps_stream {i : Instr} {s u : State} (h : Completes i s u) :
    u.host = s.host ∧ u.memSize = s.memSize ∧ u.cmdPtr = s.cmdPtr := by
  cases h with
  | tile | frame => simp [emit]
  | finish | keep | pointers | result | warned | clear | build | pal => exact ⟨rfl, rfl, rfl⟩

/-- With no host action to come, a step either leaves the block stopped, or it ran a command whose descriptor lies in
BUF and CMD_PTR moved on by 16. -/
theorem step_stops_or_advances {s : State} (hhost : s.host = []) :
    (∃ t, step s = .next t ∧ Stopped t) ∨
      s.cmdPtr.toNat + 16 ≤ s.memSize ∧
        ∃ t, step s = .next t ∧ t.host = [] ∧ t.memSize = s.memSize ∧ t.cmdPtr = s.cmdPtr + 16#32 := by
  cases hbusy : s.busy with
  | false => exact .inl ⟨s, idleStepChangesNothing s hhost hbusy, hbusy⟩
  | true =>
    cases hf : fetch s with
    | error e => exact .inl ⟨_, step_of_fetch_error hhost hbusy hf, rfl⟩
    | ok i =>
      rw [step_of_fetch_ok hhost hbusy hf]
      obtain ⟨u, hu, hx⟩ | ⟨e, -, hx⟩ := exec_cases i s
      · obtain ⟨huhost, husize, hucmd⟩ := hu.keeps_stream
        obtain ⟨-, hin, -⟩ := fetch_eq_ok.1 hf
        exact .inr ⟨inRange_fetchRange.1 hin, _, hx, huhost.trans hhost, husize, congrArg (· + 16#32) hucmd⟩
      · exact .inl ⟨_, hx, rfl⟩

theorem run_succ_of_step {s t : State} (h : step s = .next t) (k : Nat) :
    Host.Core.run Sys2Proof.core (k + 1) s = Host.Core.run Sys2Proof.core k t := by
  have hcore : Sys2Proof.core.step s = .next t := h
  simp only [Host.Core.run, hcore]

/-- The commands still to fetch bound the steps: with at most `n` whole descriptors between CMD_PTR and the end of
BUF, at most `n` steps run a command and one more stops the stream. -/
theorem run_stops_of_memSize_lt {n : Nat} {s : State} (hhost : s.host = []) (hmax : s.memSize ≤ Config.memSizeMax)
    (hn : s.memSize < s.cmdPtr.toNat + 16 * (n + 1)) :
    ∃ k ≤ n + 1, ∃ t : State, Host.Core.run Sys2Proof.core k s = .next t ∧ Stopped t := by
  induction n generalizing s with
  | zero =>
    obtain ⟨t, ht, hstop⟩ | ⟨hin, -⟩ := step_stops_or_advances hhost
    · exact ⟨1, le_rfl, t, run_succ_of_step ht 0, hstop⟩
    · omega
  | succ n ih =>
    obtain ⟨t, ht, hstop⟩ | ⟨hin, t, ht, hthost, htsize, htcmd⟩ := step_stops_or_advances hhost
    · exact ⟨1, by omega, t, run_succ_of_step ht 0, hstop⟩
    · have hptr : t.cmdPtr.toNat = s.cmdPtr.toNat + 16 := by
        have hcap : Config.memSizeMax < 2 ^ 32 := by decide
        rw [htcmd, BitVec.toNat_add_of_lt (by simp; omega)]
        rfl
      obtain ⟨k, hk, u, hu, hstop⟩ := ih hthost (htsize ▸ hmax) (by omega)
      exact ⟨k + 1, by omega, u, (run_succ_of_step ht k).trans hu, hstop⟩

/-- Settles O60: MEM_SIZE/16 bounds the whole descriptors from any CMD_PTR on. -/
theorem everyStreamTerminates : Obligations.EveryStreamTerminates := fun _ hmem hhost =>
  run_stops_of_memSize_lt hhost hmem.sizeMax (by omega)

end Sys2Proof.Machine
end

section
/-! PROOFS. The quantizer: its two roundings and how they invert each other, the bytes of a colour that its commands
work on, and QSNAP, QTON, QEXP and QFIX (41_color_quantizer.md R160 to R170). -/

namespace Sys2Proof.Machine

/-! ## Rounding a quotient of naturals to the nearest integer -/

/-- The integer form of rounding that R160 and R161 state. -/
theorem round_natCast_div_natCast (p : Nat) {d : Nat} (hd : 0 < d) :
    round ((p : ℚ) / d) = ((2 * p + d) / (2 * d) : Nat) := by
  have hhalf : (p : ℚ) / d + 1 / 2 = ((2 * p + d : Nat) : ℚ) / (2 * d : Nat) := by
    push_cast
    field_simp
  rw [round_eq, hhalf, Rat.floor_natCast_div_natCast]
  rfl

/-- A quotient with an odd divisor is never half way between two integers. -/
theorem two_mul_ne_odd_mul {p d : Nat} (hd : d % 2 = 1) (k : Nat) : 2 * p ≠ d * (2 * k + 1) := by
  intro h
  have hparity : d * (2 * k + 1) % 2 = 1 := by simp [Nat.mul_mod, hd]
  omega

/-! ## The greatest code (41_color_quantizer.md R160) -/

theorem maxCode_pos {b : Nat} (hlow : 1 ≤ b) : 0 < maxCode b := by
  have hpow : 2 ^ 1 ≤ 2 ^ b := Nat.pow_le_pow_right (by decide) hlow
  unfold maxCode
  omega

theorem maxCode_le {b : Nat} (hhigh : b ≤ 8) : maxCode b ≤ 255 := by
  have hpow : 2 ^ b ≤ 2 ^ 8 := Nat.pow_le_pow_right (by decide) hhigh
  unfold maxCode
  omega

theorem maxCode_odd {b : Nat} (hlow : 1 ≤ b) : maxCode b % 2 = 1 := by
  obtain ⟨k, rfl⟩ := Nat.exists_eq_add_of_le' hlow
  have hpos : 0 < 2 ^ k := Nat.two_pow_pos k
  rw [maxCode, Nat.pow_succ]
  omega

theorem maxCode_cast (b : Nat) : (maxCode b : ℚ) = 2 ^ b - 1 := by
  simp [maxCode]

/-! ## toNBit and expand (41_color_quantizer.md R160, R161, R165) -/

theorem toNBit_le {v : Nat} (hv : v ≤ 255) (b : Nat) : toNBit v b ≤ maxCode b := by
  have hmul : v * maxCode b ≤ 255 * maxCode b := Nat.mul_le_mul_right _ hv
  rw [toNBit, Nat.mul_assoc]
  omega

theorem toNBit_eight (v : Nat) : toNBit v 8 = v := by
  rw [toNBit, show maxCode 8 = 255 from rfl]
  omega

/-- Settles O14: the integer form rounds v*m/255, and 255 is odd. -/
theorem toNBitRounds : Obligations.ToNBitRounds := by
  intro v b hv hlow hhigh
  refine ⟨?_, fun k => ?_, rfl, toNBit_le hv b, ?_⟩
  · have hround := round_natCast_div_natCast (v * maxCode b) (d := 255) (by decide)
    rw [← Nat.mul_assoc] at hround
    rw [← maxCode_cast, toNBit, ← hround]
    push_cast
    rfl
  · rw [Nat.mul_assoc]
    exact two_mul_ne_odd_mul (by decide) k
  · rintro rfl
    exact toNBit_eight v

theorem expand_le {n b : Nat} (hlow : 1 ≤ b) (hn : n ≤ maxCode b) : expand n b ≤ 255 := by
  have hm := maxCode_pos hlow
  rw [expand, Nat.div_le_iff_le_mul (by omega)]
  omega

theorem expand_zero {b : Nat} (hlow : 1 ≤ b) : expand 0 b = 0 := by
  have hm := maxCode_pos hlow
  exact Nat.div_eq_of_lt (by omega)

theorem expand_maxCode {b : Nat} (hlow : 1 ≤ b) : expand (maxCode b) b = 255 := by
  have hm := maxCode_pos hlow
  exact Nat.div_eq_of_lt_le (by omega) (by omega)

theorem expand_eight (n : Nat) : expand n 8 = n := by
  rw [expand, show maxCode 8 = 255 from rfl]
  omega

/-- Settles O15: the integer form rounds n*255/m, and m is odd. -/
theorem expandRounds : Obligations.ExpandRounds := by
  intro n b hlow hhigh hn
  refine ⟨?_, fun k => ?_, rfl, expand_le hlow hn, expand_zero hlow, expand_maxCode hlow, ?_⟩
  · have hround := round_natCast_div_natCast (n * 255) (maxCode_pos hlow)
    rw [show 2 * (n * 255) = 510 * n by ring] at hround
    rw [← maxCode_cast, expand, ← hround]
    push_cast
    rfl
  · rw [Nat.mul_assoc]
    exact two_mul_ne_odd_mul (maxCode_odd hlow) k
  · rintro rfl
    exact expand_eight n

/-- With q = expand(n, b), 2*m*q lies within m of 510*n; m is at most 255, and 2*m*q is even, so toNBit rounds back
to n. -/
theorem toNBit_expand {b : Nat} (hlow : 1 ≤ b) (hhigh : b ≤ 8) (n : Nat) : toNBit (expand n b) b = n := by
  have hpos := maxCode_pos hlow
  have hle := maxCode_le hhigh
  have hbelow := Nat.mul_div_le (510 * n + maxCode b) (2 * maxCode b)
  have habove := Nat.lt_mul_div_succ (510 * n + maxCode b) (show 0 < 2 * maxCode b by omega)
  rw [← expand, Nat.mul_assoc] at hbelow
  rw [← expand, Nat.mul_succ, Nat.mul_assoc] at habove
  rw [toNBit, Nat.mul_assoc, Nat.mul_comm (expand n b)]
  omega

/-- Settles O17: `toNBit_expand`, which holds for every n. -/
theorem codeOfExpandedCode : Obligations.CodeOfExpandedCode := fun n _ hlow hhigh _ => toNBit_expand hlow hhigh n

/-! ## The bytes of a colour (00_scope.md R10) -/

theorem channel_lt (c : Word) (k : Nat) : channel c k < 256 := Nat.mod_lt _ (by decide)

theorem ofNat_channel_toNat (c : Word) (k : Nat) : (BitVec.ofNat 8 (channel c k)).toNat = channel c k :=
  Nat.mod_eq_of_lt (channel_lt c k)

theorem ofNat_channel (c : Word) (k : Nat) : BitVec.ofNat 8 (channel c k) = c.extractLsb' (8 * k) 8 := by
  apply BitVec.eq_of_toNat_eq
  rw [ofNat_channel_toNat, channel, BitVec.extractLsb'_toNat, Nat.shiftRight_eq_div_pow, Nat.pow_mul]

theorem redOf_rgbOf (c : Word) : redOf (rgbOf c) = BitVec.ofNat 8 (channel c 0) := by
  simp [redOf, rgbOf, ofNat_channel]

theorem greenOf_rgbOf (c : Word) : greenOf (rgbOf c) = BitVec.ofNat 8 (channel c 1) := by
  simp [greenOf, rgbOf, ofNat_channel]

theorem blueOf_rgbOf (c : Word) : blueOf (rgbOf c) = BitVec.ofNat 8 (channel c 2) := by
  simp [blueOf, rgbOf, ofNat_channel]

theorem alphaOf_eq (c : Word) : alphaOf c = BitVec.ofNat 8 (channel c 3) := (ofNat_channel c 3).symm

theorem channels_append (alpha blue green red : Byte) :
    channel (alpha ++ blue ++ green ++ red) 0 = red.toNat ∧
      channel (alpha ++ blue ++ green ++ red) 1 = green.toNat ∧
      channel (alpha ++ blue ++ green ++ red) 2 = blue.toNat ∧
      channel (alpha ++ blue ++ green ++ red) 3 = alpha.toNat := by
  simp only [channel, toNat_append_eq_add]
  omega

theorem mapChannels_eq (f : Byte → Byte) (c : Word) :
    mapChannels f c = BitVec.ofNat 8 (channel c 3) ++ f (BitVec.ofNat 8 (channel c 2)) ++
      f (BitVec.ofNat 8 (channel c 1)) ++ f (BitVec.ofNat 8 (channel c 0)) := by
  rw [mapChannels, alphaOf_eq, blueOf_rgbOf, greenOf_rgbOf, redOf_rgbOf]

/-- R, G and B of a mapped colour are the function's values at the bytes before. -/
theorem channel_mapChannels (f : Byte → Byte) (c : Word) {k : Nat} (hk : k < 3) :
    channel (mapChannels f c) k = (f (BitVec.ofNat 8 (channel c k))).toNat := by
  rw [mapChannels_eq]
  obtain rfl | rfl | rfl : k = 0 ∨ k = 1 ∨ k = 2 := by omega
  all_goals simp only [channels_append]

theorem channel_mapChannels_alpha (f : Byte → Byte) (c : Word) : channel (mapChannels f c) 3 = channel c 3 := by
  simp only [mapChannels_eq, channels_append, ofNat_channel_toNat]

/-- Two channel functions after each other are one. -/
theorem mapChannels_mapChannels (g f : Byte → Byte) (c : Word) :
    mapChannels g (mapChannels f c) = mapChannels (fun v => g (f v)) c := by
  rw [mapChannels_eq g, channel_mapChannels_alpha, mapChannels_eq fun v => g (f v)]
  simp (disch := decide) only [channel_mapChannels, BitVec.ofNat_toNat, BitVec.setWidth_eq]

/-- R169 compares colours by bits 23:0 alone. -/
theorem rgbOf_eq_rgbOf_iff {w c : Word} : rgbOf w = rgbOf c ↔ w.toNat % 2 ^ 24 = c.toNat % 2 ^ 24 := by
  simp [rgbOf, ← BitVec.toNat_inj]

/-! ## The channel functions of the quantizer (41_color_quantizer.md R162, R164, R168) -/

theorem codeByte_toNat {b : Nat} (hhigh : b ≤ 8) (v : Byte) : (codeByte b v).toNat = toNBit v.toNat b := by
  have hcode := toNBit_le (Nat.le_of_lt_succ v.isLt) b
  have hm := maxCode_le hhigh
  exact Nat.mod_eq_of_lt (by omega)

theorem codeByte_le {b : Nat} (hhigh : b ≤ 8) (v : Byte) : (codeByte b v).toNat ≤ maxCode b := by
  rw [codeByte_toNat hhigh]
  exact toNBit_le (Nat.le_of_lt_succ v.isLt) b

theorem expandByte_toNat {b : Nat} (hlow : 1 ≤ b) {n : Byte} (hn : n.toNat ≤ maxCode b) :
    (expandByte b n).toNat = expand n.toNat b :=
  Nat.mod_eq_of_lt (Nat.lt_succ_of_le (expand_le hlow hn))

theorem codeByte_expandByte {b : Nat} (hlow : 1 ≤ b) (hhigh : b ≤ 8) {n : Byte} (hn : n.toNat ≤ maxCode b) :
    codeByte b (expandByte b n) = n := by
  apply BitVec.eq_of_toNat_eq
  rw [codeByte_toNat hhigh, expandByte_toNat hlow hn, toNBit_expand hlow hhigh]

/-- Settles O16: the code of an expanded code is the code, in each channel. -/
theorem snapIsIdempotent : Obligations.SnapIsIdempotent := by
  intro c b hlow hhigh
  simp only [snap, mapChannels_mapChannels, codeByte_expandByte hlow hhigh (codeByte_le hhigh _)]

/-- QEXP undoes QTON to the snapped colour. -/
theorem mapChannels_expandByte_codeByte (b : Nat) (c : Word) :
    mapChannels (expandByte b) (mapChannels (codeByte b) c) = snap c b :=
  mapChannels_mapChannels _ _ c

theorem codeTooWide_eq (b : Nat) (w : Word) :
    codeTooWide b w = (List.range 3).any fun k => decide (maxCode b < channel w k) := by
  simp only [codeTooWide, redOf_rgbOf, greenOf_rgbOf, blueOf_rgbOf, List.any_cons, ofNat_channel_toNat]
  rfl

theorem codeTooWide_eq_true_iff {b : Nat} {w : Word} :
    codeTooWide b w = true ↔ ∃ k < 3, maxCode b < channel w k := by
  simp [codeTooWide_eq]

theorem codeTooWide_eq_false_iff {b : Nat} {w : Word} :
    codeTooWide b w = false ↔ ∀ k < 3, channel w k ≤ maxCode b := by
  simp [← Bool.not_eq_true, codeTooWide_eq_true_iff]

/-! ## QSNAP, QTON and QEXP (41_color_quantizer.md R166 to R168) -/

/-- Settles O18: every code fits its depth, so it expands as a natural does. -/
theorem qsnapCompletes : Obligations.QsnapCompletes := by
  intro b c s hlow hhigh
  refine ⟨snap c b.toNat, rfl, fun k hk => ?_, channel_mapChannels_alpha _ c⟩
  rw [snap, channel_mapChannels _ c hk, expandByte_toNat hlow (codeByte_le hhigh _), codeByte_toNat hhigh,
    ofNat_channel_toNat]

/-- Settles O19: RESULT is the operand with `codeByte` applied to R, G and B. -/
theorem qtonCompletes : Obligations.QtonCompletes := by
  intro b c s _ hhigh
  refine ⟨mapChannels (codeByte b.toNat) c, rfl, fun k hk => ?_, channel_mapChannels_alpha _ c⟩
  rw [channel_mapChannels _ c hk]
  exact ⟨by rw [codeByte_toNat hhigh, ofNat_channel_toNat], codeByte_le hhigh _⟩

theorem exec_qexp_of_fits {b : BitVec 4} {w : Word} {s : State} (h : ∀ k < 3, channel w k ≤ maxCode b.toNat) :
    exec (.qexp b w) s = .next (advance (setResult (mapChannels (expandByte b.toNat) w) s)) :=
  congrArg (complete s) (expandBody_eq_ok.2 ⟨codeTooWide_eq_false_iff.2 h, rfl⟩)

theorem exec_qexp_of_wide {b : BitVec 4} {w : Word} {s : State} (h : ∃ k < 3, maxCode b.toNat < channel w k) :
    exec (.qexp b w) s = .next (abort ⟨.range, w, BitVec.ofNat 32 (2 ^ b.toNat)⟩ s) :=
  congrArg (complete s) (expandBody_eq_error.2 ⟨codeTooWide_eq_true_iff.2 h, rfl⟩)

/-- The codes QTON writes fit their depth. -/
theorem channel_mapChannels_codeByte_le {b : Nat} (hhigh : b ≤ 8) (c : Word) {k : Nat} (hk : k < 3) :
    channel (mapChannels (codeByte b) c) k ≤ maxCode b := by
  rw [channel_mapChannels _ c hk]
  exact codeByte_le hhigh _

theorem legalDepth_of_range {b : BitVec 4} (hlow : 1 ≤ b.toNat) (hhigh : b.toNat ≤ 8) : legalDepth b = true := by
  simp [legalDepth, hlow, hhigh]

/-- OP = 0x12 and F = b as a number. -/
theorem packHead_qexp (b : BitVec 4) :
    packHead 0x12#8 b 0#2 false false = BitVec.ofNat 32 (0x12 + 256 * b.toNat) := by
  apply BitVec.eq_of_toNat_eq
  have hb := b.isLt
  simp only [packHead, toNat_append_eq_add, BitVec.toNat_ofBool, BitVec.toNat_ofNat, Bool.toNat_false]
  omega

/-- An operand word that must be zero and is not is rejected. -/
theorem decode_rejects_of_badOperand {d : Descriptor} {h : Head} (hd : decodeHead d.w0 = some h)
    (hbad : badOperand h d ≠ none) : ∃ r, decode d = .error r := by
  obtain ⟨r, hr⟩ := Option.ne_none_iff_exists'.1 hbad
  exact ⟨r, decode_of_badOperand hd hr⟩

/-- Settles O20: QEXP completes or raises RANGE by `codeTooWide`, QTON's codes fit, and W2 and W3 must be zero. -/
theorem qexpChecksThenExpands : Obligations.QexpChecksThenExpands := by
  intro b w s hlow hhigh
  have hlegal := legalDepth_of_range hlow hhigh
  rw [← packHead_qexp]
  refine ⟨fun hfit => ?_, exec_qexp_of_wide, fun t ht => ?_, decode_encode (i := .qexp b w) hlegal,
    fun w2 w3 hne => ?_⟩
  · refine ⟨mapChannels (expandByte b.toNat) w, exec_qexp_of_fits hfit, fun k hk => ?_,
      channel_mapChannels_alpha _ w⟩
    rw [channel_mapChannels _ w hk, expandByte_toNat hlow ((ofNat_channel_toNat w k).trans_le (hfit k hk)),
      ofNat_channel_toNat]
  · have hcodes : t.result = mapChannels (codeByte b.toNat) w := Host.Outcome.next.inj ht ▸ rfl
    rw [hcodes, exec_qexp_of_fits fun k hk => channel_mapChannels_codeByte_le hhigh w hk,
      mapChannels_expandByte_codeByte]
    rfl
  · refine decode_rejects_of_badOperand (decodeHead_encode (.qexp b w) hlegal) fun hgood => ?_
    obtain ⟨-, h2, h3⟩ := badOperand_eq_none_iff.1 hgood
    exact hne.elim (· (h2 rfl)) (· (h3 rfl))

/-! ## QFIX (41_color_quantizer.md R169, R170) -/

/-- The first index whose value is some decides a search. -/
theorem findSome?_range_of_first {α : Type} {f : Nat → Option α} {n i : Nat} {a : α} (hi : i < n)
    (ha : f i = some a) (hbefore : ∀ j < i, f j = none) : (List.range n).findSome? f = some a := by
  induction n with
  | zero => omega
  | succ n ih =>
    rw [List.range_succ, List.findSome?_append]
    by_cases hin : i < n
    · rw [ih hin, Option.some_or]
    · obtain rfl : i = n := by omega
      simp [ha, List.findSome?_eq_none_iff.2 fun j hj => hbefore j (List.mem_range.1 hj)]

theorem fixLookup_of_first {s : State} {x : Rgb} {i : Nat} (hi : i < s.fixCount.toNat)
    (hmatch : rgbOf (fixEntry s i) = x) (hbefore : ∀ j < i, rgbOf (fixEntry s j) ≠ x) :
    fixLookup s x = some (i, alphaOf (fixEntry s i)) :=
  findSome?_range_of_first hi (if_pos hmatch) fun j hj => if_neg (hbefore j hj)

theorem fixLookup_of_absent {s : State} {x : Rgb} (h : ∀ j < s.fixCount.toNat, rgbOf (fixEntry s j) ≠ x) :
    fixLookup s x = none :=
  List.findSome?_eq_none_iff.2 fun j hj => if_neg (h j (List.mem_range.1 hj))

/-- FOUND, an index below 256 and a code as one number. -/
theorem fixResult_some {i : Nat} (hi : i < 256) (w : Word) :
    fixResult (some (i, alphaOf w)) = BitVec.ofNat 32 (2 ^ 31 + 256 * i + channel w 3) := by
  have hw := channel_lt w 3
  apply BitVec.eq_of_toNat_eq
  simp only [fixResult, alphaOf_eq, toNat_append_eq_add, BitVec.toNat_ofNat]
  omega

theorem exec_qfix_of_inRange {s : State} (c : Word) (h : inRange s (fixRange s)) :
    exec (.qfix c) s = .next (advance (setResult (fixResult (fixLookup s (rgbOf c))) s)) :=
  congrArg (complete s) (fixBody_eq_ok.2 ⟨h, rfl⟩)

theorem exec_qfix_of_outside {s : State} (c : Word) (h : ¬ inRange s (fixRange s)) :
    exec (.qfix c) s = .next (abort ⟨.bounds, s.fixBase, clipWord (4 * s.fixCount.toNat)⟩ s) :=
  congrArg (complete s) (fixBody_eq_error.2 ⟨h, rfl⟩)

theorem clipWord_of_le {n : Nat} (h : n ≤ Config.wordMax) : clipWord n = BitVec.ofNat 32 n := by
  rw [clipWord, Nat.min_eq_left h]

theorem head_eq_qfix {k : Head} (h : k.opcode.toNat = 0x13) : k = .qfix := by
  cases k with
  | qfix => rfl
  | _ => cases h

/-- Settles O21: the lookup finds the first entry with the colour, and QFIX alone has OP = 0x13. -/
theorem qfixLooksUpTheFixedTable : Obligations.QfixLooksUpTheFixedTable := by
  intro c s hcap
  refine ⟨fun hin i hi hmatch hbefore => ?_, fun hin habsent => ?_, fun hout => ?_,
    decode_encode (i := .qfix c) rfl, fun w0 w2 w3 hop hne => ?_⟩
  · have hlookup : fixLookup s (rgbOf c) = some (i, alphaOf (fixEntry s i)) :=
      fixLookup_of_first hi (rgbOf_eq_rgbOf_iff.2 hmatch) fun j hj => mt rgbOf_eq_rgbOf_iff.1 (hbefore j hj)
    rw [exec_qfix_of_inRange c hin, hlookup, fixResult_some (by omega)]
    rfl
  · have hlookup : fixLookup s (rgbOf c) = none :=
      fixLookup_of_absent fun j hj => mt rgbOf_eq_rgbOf_iff.1 (habsent j hj)
    rw [exec_qfix_of_inRange c hin, hlookup]
    rfl
  · rw [exec_qfix_of_outside c hout, clipWord_of_le (by simp only [Config.wordMax]; omega)]
    rfl
  · refine decode_rejects_of_only_head (h := .qfix) (fun _ hk => head_eq_qfix (hk.trans hop)) rfl fun he => ?_
    injection he with h0 _ h2 h3
    exact hne.elim (· h0) (·.elim (· h2) (· h3))

end Sys2Proof.Machine
end

section
/-! PROOFS. The color index mapper: the slot a pixel resolves to, the colours MAPBUILD collects from a list, and MAPCLR,
MAPBUILD and MAPLOOK (42_color_index_mapper.md R190 to R195). -/

namespace Sys2Proof.Machine

/-! ## Colours and LUT slots (00_scope.md R10, 10_state.md R41) -/

theorem transparent_iff {c : Word} : transparent c = true ↔ channel c 3 < 128 := by
  rw [transparent, alphaOf_eq, ofNat_channel_toNat, decide_eq_true_iff]
  rfl

theorem transparent_eq_false_iff {c : Word} : transparent c = false ↔ 128 ≤ channel c 3 := by
  rw [← Bool.not_eq_true, transparent_iff, Nat.not_lt]

theorem eq_rgbOf_iff {x : Rgb} {c : Word} : x = rgbOf c ↔ x.toNat = c.toNat % 2 ^ 24 := by
  simp [rgbOf, ← BitVec.toNat_inj]

theorem setWidth_eq_rgbOf (c : Word) : c.setWidth 24 = rgbOf c := BitVec.setWidth_eq_extractLsb' (by decide)

/-- The colour that DUP_COLOR reports. -/
theorem rgbOf_setWidth (c : Word) : (rgbOf c).setWidth 32 = BitVec.ofNat 32 (c.toNat % 2 ^ 24) := by
  rw [← eq_rgbOf_iff.1 rfl, BitVec.ofNat_toNat]

/-- The colour at index i of LUT[1..LUT_N] is that of slot i + 1. -/
theorem lutColors_getElem {s : State} {i : Nat} (h : i < (lutColors s).length) :
    (lutColors s)[i] = lutSlot s (i + 1) := by
  have hi : i < s.lut.toList.length := h.trans_le (List.length_take_le' _ _)
  rw [lutSlot, if_neg i.succ_ne_zero, Nat.add_sub_cancel, List.getD_eq_getElem _ _ hi]
  exact List.getElem_take

/-! ## The slot of a pixel (42_color_index_mapper.md R191) -/

theorem resolve_of_transparent {px : Word} (h : channel px 3 < 128) (s : State) : resolve s px = (0#8, false) :=
  if_pos (transparent_iff.2 h)

theorem resolve_of_first {s : State} {px : Word} {k : Nat} (hopaque : 128 ≤ channel px 3) (hpos : 1 ≤ k)
    (hk : k ≤ s.lutN.toNat) (hmatch : lutSlot s k = rgbOf px)
    (hbefore : ∀ j, 1 ≤ j → j < k → lutSlot s j ≠ rgbOf px) : resolve s px = (BitVec.ofNat 8 k, false) := by
  obtain ⟨i, rfl⟩ := Nat.exists_eq_add_of_le' hpos
  have hi : i < (lutColors s).length := by rwa [lutColors_length]
  have hfind : ((lutColors s).findIdx? fun x => decide (x = rgbOf px)) = some i := by
    refine List.findIdx?_eq_some_iff_getElem.2 ⟨hi, ?_, fun j hj => ?_⟩
    · rw [lutColors_getElem, hmatch, decide_eq_true_iff]
    · rw [lutColors_getElem, decide_eq_true_iff]
      exact hbefore (j + 1) (by omega) (by omega)
  rw [resolve, transparent_eq_false_iff.2 hopaque, hfind]
  rfl

theorem resolve_of_absent {s : State} {px : Word} (hopaque : 128 ≤ channel px 3)
    (habsent : ∀ j, 1 ≤ j → j ≤ s.lutN.toNat → lutSlot s j ≠ rgbOf px) : resolve s px = (1#8, true) := by
  have hfind : ((lutColors s).findIdx? fun x => decide (x = rgbOf px)) = none := by
    refine List.findIdx?_eq_none_iff.2 fun x hx => decide_eq_false fun hmatch => ?_
    obtain ⟨i, hi, rfl⟩ := List.getElem_of_mem hx
    rw [lutColors_getElem] at hmatch
    exact habsent (i + 1) (by omega) (by rwa [lutColors_length] at hi) hmatch
  rw [resolve, transparent_eq_false_iff.2 hopaque, hfind]
  rfl

/-- Settles O22, by the alpha of the pixel and the first slot with its colour. -/
theorem resolveGivesTheSlot : Obligations.ResolveGivesTheSlot := fun s _ =>
  ⟨fun halpha => resolve_of_transparent halpha s,
    fun hopaque _ hpos hk hmatch hbefore => resolve_of_first hopaque hpos hk (eq_rgbOf_iff.2 hmatch)
      fun j hj hjk => mt eq_rgbOf_iff.1 (hbefore j hj hjk),
    fun hopaque habsent => resolve_of_absent hopaque fun j hj hjn => mt eq_rgbOf_iff.1 (habsent j hj hjn)⟩

/-! ## MAPLOOK (42_color_index_mapper.md R194, 60_exceptions.md R310) -/

/-- One miss in terms of the saturating count. -/
theorem warn_eq (px : Word) (s : State) : warn px s = { s with
    warnCount := BitVec.ofNat 32 (min (s.warnCount.toNat + 1) 0xFFFFFFFF)
    warnRgba := if s.warnCount = 0#32 then px else s.warnRgba } := warnAll_eq [px] s

theorem exec_maplook_of_unmapped {s : State} (h : s.lutValid = false) (px : Word) :
    exec (.maplook px) s = .next (abortedState .noMap 0#32 0#32 s) :=
  congrArg (complete s) (lookBody_eq_error.2 ⟨h, rfl⟩)

theorem exec_maplook_of_slot {s : State} {px : Word} {slot : Byte} (hvalid : s.lutValid = true)
    (hslot : resolve s px = (slot, false)) :
    exec (.maplook px) s = .next (advance (setResult (slot.setWidth 32) s)) :=
  congrArg (complete s) (lookBody_eq_ok.2 ⟨hvalid, by rw [hslot]; rfl⟩)

theorem exec_maplook_of_miss {s : State} {px : Word} (hvalid : s.lutValid = true)
    (hmiss : resolve s px = (1#8, true)) :
    exec (.maplook px) s = .next (advance (setResult 1#32 (warn px s))) :=
  congrArg (complete s) (lookBody_eq_ok.2 ⟨hvalid, by rw [hmiss]; rfl⟩)

/-- Settles O27: NO_MAP without a mapping, and otherwise the three ways a pixel resolves. -/
theorem maplookCompletes : Obligations.MaplookCompletes := by
  intro px s
  obtain ⟨hclear, hhit, hmiss⟩ := resolveGivesTheSlot s px
  refine ⟨fun hvalid => exec_maplook_of_unmapped hvalid px, fun hvalid halpha => ?_,
    fun hvalid hopaque k hpos hk hmatch hbefore => ?_, fun hvalid hopaque habsent => ?_⟩
  · exact exec_maplook_of_slot hvalid (hclear halpha)
  · have hslot : (BitVec.ofNat 8 k).setWidth 32 = BitVec.ofNat 32 k := by
      have hN := s.lutN.isLt
      apply BitVec.eq_of_toNat_eq
      simp
      omega
    rw [exec_maplook_of_slot hvalid (hhit hopaque k hpos hk hmatch hbefore), hslot]
    rfl
  · rw [exec_maplook_of_miss hvalid (hmiss hopaque habsent), warn_eq]
    rfl

/-! ## MAPCLR (42_color_index_mapper.md R192) -/

theorem lutWindow_of_unmapped {s : State} (h : s.lutValid = false) (k : Nat) : lutWindow s k = 0#32 :=
  if_neg fun hk => Bool.false_ne_true (h.symm.trans hk.1)

theorem lutStatWord_of_empty {s : State} (hvalid : s.lutValid = false) (hn : s.lutN = 0#8) :
    lutStatWord s = 0#32 := by
  rw [lutStatWord, hvalid, hn]
  rfl

/-- Settles O23: nothing of a mapping is left for the port or MAPLOOK to find. -/
theorem mapclrDiscardsTheMapping : Obligations.MapclrDiscardsTheMapping := by
  intro s
  refine ⟨advance (clearLut s), rfl, rfl, lutStatWord_of_empty rfl rfl, fun k hlow hhigh => ?_,
    exec_maplook_of_unmapped rfl⟩
  rw [readReg_of_ge (by omega), if_pos ⟨hlow, hhigh⟩]
  exact lutWindow_of_unmapped rfl _

/-! ## The colours of a list (20_memory.md R73, 42_color_index_mapper.md R193) -/

/-- One more entry adds its colour, unless it is a sentinel. -/
theorem listedColors_succ (s : State) (cl i : Nat) :
    listedColors s cl (i + 1) = listedColors s cl i ++
      if transparent (s.buf.readWord (cl + 4 * i)) then [] else [rgbOf (s.buf.readWord (cl + 4 * i))] := by
  simp only [listedColors, List.range_succ, List.map_append, List.filter_append, List.map_cons, List.map_nil]
  cases halpha : transparent (s.buf.readWord (cl + 4 * i))
  · simp [transparent_eq_false_iff.1 halpha, setWidth_eq_rgbOf]
  · simp [transparent_iff.1 halpha]

theorem collectColors_of_repeat {m : Memory} {cl k i : Nat} {seen : List Rgb}
    (hopaque : 128 ≤ channel (m.readWord (cl + 4 * i)) 3) (hmem : rgbOf (m.readWord (cl + 4 * i)) ∈ seen) :
    collectColors m cl (k + 1) i seen =
      .error ⟨.dupColor, BitVec.ofNat 32 i, (rgbOf (m.readWord (cl + 4 * i))).setWidth 32⟩ := by
  simp [collectColors, transparent_eq_false_iff.2 hopaque, hmem]

/-- An entry that repeats no colour is collected, or skipped as a sentinel. -/
theorem collectColors_listedColors_succ {s : State} {cl i : Nat} (k : Nat)
    (hdistinct : (listedColors s cl (i + 1)).Nodup) :
    collectColors s.buf cl (k + 1) i (listedColors s cl i) =
      collectColors s.buf cl k (i + 1) (listedColors s cl (i + 1)) := by
  rw [listedColors_succ] at hdistinct ⊢
  cases halpha : transparent (s.buf.readWord (cl + 4 * i)) with
  | true => simp [collectColors, halpha]
  | false =>
    have hnew : rgbOf (s.buf.readWord (cl + 4 * i)) ∉ listedColors s cl i := fun hmem =>
      (List.nodup_append.1 hdistinct).2.2 _ hmem _ (by simp [halpha]) rfl
    simp [collectColors, halpha, hnew]

/-- Entries whose opaque colours are distinct are read without an error; the rest of the list follows them. -/
theorem collectColors_of_nodup {s : State} {cl i : Nat} (k : Nat) (hdistinct : (listedColors s cl i).Nodup) :
    collectColors s.buf cl (i + k) 0 [] = collectColors s.buf cl k i (listedColors s cl i) := by
  induction i generalizing k with
  | zero => rw [Nat.zero_add]; rfl
  | succ i ih =>
    have hshorter : (listedColors s cl i).Nodup := by
      rw [listedColors_succ] at hdistinct
      exact (List.nodup_append.1 hdistinct).1
    rw [Nat.succ_add_eq_add_succ, ih (k + 1) hshorter, collectColors_listedColors_succ k hdistinct]

theorem collectColors_eq_listedColors {s : State} {cl n : Nat} (hdistinct : (listedColors s cl n).Nodup) :
    collectColors s.buf cl n 0 [] = .ok (listedColors s cl n) := collectColors_of_nodup 0 hdistinct

theorem collectColors_of_first_repeat {s : State} {cl n i : Nat} (hi : i < n)
    (hopaque : 128 ≤ channel (s.buf.readWord (cl + 4 * i)) 3) (hdistinct : (listedColors s cl i).Nodup)
    (hmem : rgbOf (s.buf.readWord (cl + 4 * i)) ∈ listedColors s cl i) :
    collectColors s.buf cl n 0 [] =
      .error ⟨.dupColor, BitVec.ofNat 32 i, (rgbOf (s.buf.readWord (cl + 4 * i))).setWidth 32⟩ := by
  obtain ⟨k, rfl⟩ := Nat.exists_eq_add_of_lt hi
  rw [Nat.add_assoc, collectColors_of_nodup (k + 1) hdistinct, collectColors_of_repeat hopaque hmem]

/-! ## MAPBUILD (42_color_index_mapper.md R193, R195; 60_exceptions.md R302, R303) -/

theorem lutSlot_setLut (colors : List Rgb) (s : State) {k : Nat} (hpos : 1 ≤ k) (hk : k ≤ 255) :
    lutSlot (setLut colors s) k = colors.getD (k - 1) 0#24 := by
  have hlt : k - 1 < 255 := by omega
  simp [lutSlot, Nat.ne_of_gt hpos, hlt]

/-- The three errors of MAPBUILD, in their order. -/
theorem buildBody_eq_error_iff {cl n : Word} {s : State} {e : Err} :
    buildBody cl n s = .error e ↔
      (¬ inRange s ⟨cl, 4 * n.toNat⟩ ∧ e = ⟨.bounds, cl, clipWord (4 * n.toNat)⟩) ∨
        (inRange s ⟨cl, 4 * n.toNat⟩ ∧ (collectColors s.buf cl.toNat n.toNat 0 [] = .error e ∨
          ∃ colors, collectColors s.buf cl.toNat n.toNat 0 [] = .ok colors ∧ maxEff s < colors.length ∧
            e = ⟨.colorLimit, BitVec.ofNat 32 colors.length, BitVec.ofNat 32 (maxEff s)⟩)) := by
  unfold buildBody
  simp only [bind_eq_error, checkRange_eq_error, checkRange_eq_ok, exists_const]
  refine or_congr_right (and_congr_right fun _ => or_congr_right (exists_congr fun colors =>
    and_congr_right fun _ => ?_))
  split
  case isTrue hmany => simp [throw, throwThe, MonadExceptOf.throw, hmany, eq_comm]
  case isFalse hfits => simp [pure, Except.pure, hfits]

theorem exec_mapbuild_of_fits {cl n : Word} {s : State} (hin : inRange s ⟨cl, 4 * n.toNat⟩)
    (hdistinct : (listedColors s cl.toNat n.toNat).Nodup)
    (hfits : (listedColors s cl.toNat n.toNat).length ≤ maxEff s) :
    exec (.mapbuild cl n) s = .next (advance (setLut (listedColors s cl.toNat n.toNat) s)) :=
  congrArg (complete s) (buildBody_eq_ok.2 ⟨hin, _, collectColors_eq_listedColors hdistinct, hfits, rfl⟩)

theorem exec_mapbuild_of_error {cl n : Word} {s : State} {e : Err} (h : buildBody cl n s = .error e) :
    exec (.mapbuild cl n) s = .next (abortedState e.code e.a e.b s) := congrArg (complete s) h

theorem exec_mapbuild_of_many {cl n : Word} {s : State} (hin : inRange s ⟨cl, 4 * n.toNat⟩)
    (hdistinct : (listedColors s cl.toNat n.toNat).Nodup)
    (hmany : maxEff s < (listedColors s cl.toNat n.toNat).length) :
    exec (.mapbuild cl n) s = .next (abortedState .colorLimit
      (BitVec.ofNat 32 (listedColors s cl.toNat n.toNat).length) (BitVec.ofNat 32 (maxEff s)) s) :=
  exec_mapbuild_of_error (buildBody_eq_error_iff.2 (.inr ⟨hin, .inr
    ⟨_, collectColors_eq_listedColors hdistinct, hmany, rfl⟩⟩))

/-- Settles O24: the colours collected are those listed, and `setLut` stores them from slot 1 on. -/
theorem mapbuildCompletes : Obligations.MapbuildCompletes := by
  intro cl n s hin hdistinct hfits
  have hcap : (listedColors s cl.toNat n.toNat).length ≤ 255 := hfits.trans (maxEff_le_lutCap s)
  exact ⟨_, exec_mapbuild_of_fits hin hdistinct hfits, fun k hpos hk => lutSlot_setLut _ s hpos hk,
    setLut_lutN_toNat hcap s, rfl, rfl⟩

/-- Settles O25, by the three errors of `buildBody_eq_error_iff`. -/
theorem mapbuildErrorsInOrder : Obligations.MapbuildErrorsInOrder := by
  intro cl n s
  refine ⟨fun hout => ?_, fun hin i hi hopaque hdistinct hmem => ?_, exec_mapbuild_of_many⟩
  · exact exec_mapbuild_of_error (buildBody_eq_error_iff.2 (.inl ⟨hout, rfl⟩))
  · rw [setWidth_eq_rgbOf] at hmem
    rw [← rgbOf_setWidth]
    exact exec_mapbuild_of_error (buildBody_eq_error_iff.2
      (.inr ⟨hin, .inl (collectColors_of_first_repeat hi hopaque hdistinct hmem)⟩))

/-- Settles O26: with UNLIMITED = 0 the effective limit is MAX, so M colours fit and M + 1 do not. -/
theorem colorLimitBoundary : Obligations.ColorLimitBoundary := by
  intro cl n s hlimited hin hdistinct
  have hmax : maxEff s = s.maxLimit.toNat := by simp [maxEff, hlimited]
  refine ⟨fun hlen => ?_, fun hlen => ?_⟩
  · refine ⟨_, exec_mapbuild_of_fits hin hdistinct (by omega), rfl, ?_, rfl, rfl⟩
    rw [advance_lutN, setLut_lutN, hlen, BitVec.ofNat_toNat, BitVec.setWidth_eq]
  · rw [exec_mapbuild_of_many hin hdistinct (by omega), hlen, hmax]

end Sys2Proof.Machine
end

section
/-! PROOFS. The tile layouts: where each layout puts the bits of a slot matrix, and the lengths of what a tile encodes
to (43_tile_encoder.md R225 to R237). -/

namespace Sys2Proof.Machine

/-! ## Entries of concatenated blocks of one length -/

/-- Entry `j` of block `i`, where the blocks have `k` entries each. -/
theorem getD_flatMap_of_forall {α β : Type} {f : α → List β} {k : Nat} {l : List α}
    (hlen : ∀ x ∈ l, (f x).length = k) {i j : Nat} (hi : i < l.length) (hj : j < k) (d : β) :
    (l.flatMap f).getD (k * i + j) d = (f l[i]).getD j d := by
  induction l generalizing i with
  | nil => simp at hi
  | cons x rest ih =>
    have hx : (f x).length = k := hlen x (by simp)
    rw [List.flatMap_cons]
    cases i with
    | zero => rw [Nat.mul_zero, Nat.zero_add, List.getD_append _ _ _ _ (hx ▸ hj), List.getElem_cons_zero]
    | succ i =>
      have hrest : k * (i + 1) + j = (f x).length + (k * i + j) := by rw [hx, Nat.mul_succ]; omega
      rw [hrest, List.getD_append_right _ _ _ _ (Nat.le_add_right ..), Nat.add_sub_cancel_left,
        ih (fun y hy => hlen y (by simp [hy])) (by simpa using hi), List.getElem_cons_succ]

theorem getD_map_of_lt {α β : Type} {l : List α} {i : Nat} (hi : i < l.length) (f : α → β) (d : β) :
    (l.map f).getD i d = f l[i] := by
  simp [hi]

theorem slotAt_of_lt {rows : List (List Byte)} {y : Nat} (hy : y < rows.length) (x : Nat) :
    slotAt rows y x = rows[y].getD x 0#8 := by
  rw [slotAt, List.getD_eq_getElem _ _ hy]

/-! ## Bits of a row (43_tile_encoder.md R226, R227, R236) -/

/-- The last bit of a row is bit 0 of its byte. -/
theorem rowByte_getLsbD {bits : List Bool} {k : Nat} (hk : k < 8) :
    (rowByte bits).getLsbD k = bits.reverse.getD k false := by
  induction bits using List.reverseRecOn generalizing k with
  | nil => simp [rowByte]
  | append_singleton bits b ih =>
    have hstep : rowByte (bits ++ [b]) = (rowByte bits <<< 1) ||| (BitVec.ofBool b).setWidth 8 := by
      simp [rowByte]
    rw [hstep, List.reverse_append]
    cases k with
    | zero => simp
    | succ k =>
      have hbefore := ih (Nat.lt_of_succ_lt hk)
      rw [BitVec.getLsbD_eq_getElem (Nat.lt_of_succ_lt hk)] at hbefore
      simpa [hk] using hbefore

/-- The leftmost of eight pixels is bit 7. -/
theorem rowByte_getLsbD_of_length {bits : List Bool} (hlen : bits.length = 8) {x : Nat} (hx : x < 8) :
    (rowByte bits).getLsbD (7 - x) = bits.getD x false := by
  rw [rowByte_getLsbD (by omega), List.getD_eq_getElem _ _ (by simp; omega), List.getD_eq_getElem _ _ (by omega),
    List.getElem_reverse]
  congr 1
  omega

theorem planeByte_getLsbD {row : List Byte} (hlen : row.length = 8) (k : Nat) {x : Nat} (hx : x < 8) :
    (planeByte k row).getLsbD (7 - x) = (row.getD x 0#8).getLsbD k := by
  rw [planeByte, rowByte_getLsbD_of_length (by simpa using hlen) hx, getD_map_of_lt (by omega),
    List.getD_eq_getElem _ _ (by omega)]

theorem maskByte_getLsbD {row : List Byte} {x0 : Nat} (hlen : x0 + 8 ≤ row.length) {x : Nat} (hx : x < 8) :
    (maskByte x0 row).getLsbD (7 - x) = decide (row.getD (x0 + x) 0#8 ≠ 0#8) := by
  have hwidth : ((row.drop x0).take 8).length = 8 := by simp; omega
  rw [maskByte, rowByte_getLsbD_of_length (by rw [List.length_map, hwidth]) hx, getD_map_of_lt (by omega),
    List.getD_eq_getElem _ _ (by omega)]
  simp

/-! ## Slot matrices -/

theorem IsSquare.row_length {rows : List (List Byte)} {n y : Nat} (h : IsSquare rows n) (hy : y < rows.length) :
    rows[y].length = n :=
  h.2 _ (List.getElem_mem hy)

/-- A layout that writes row by row, one byte a row. -/
theorem getD_map_rows {rows : List (List Byte)} {n y : Nat} (h : IsSquare rows n) (hy : y < n)
    (f : List Byte → Byte) : ∃ row, row.length = n ∧ (∀ x, slotAt rows y x = row.getD x 0#8) ∧
      (rows.map f).getD y 0 = f row := by
  have hrow : y < rows.length := h.1.symm ▸ hy
  exact ⟨rows[y], h.row_length hrow, slotAt_of_lt hrow, getD_map_of_lt hrow f 0⟩

/-- A layout that writes row by row, `k` bytes a row. -/
theorem getD_flatMap_rows {rows : List (List Byte)} {n y k : Nat} (h : IsSquare rows n) (hy : y < n)
    {f : List Byte → List Byte} (hlen : ∀ row, row.length = n → (f row).length = k) :
    ∃ row, row.length = n ∧ (∀ x, slotAt rows y x = row.getD x 0#8) ∧
      ∀ j < k, (rows.flatMap f).getD (k * y + j) 0 = (f row).getD j 0 := by
  have hrow : y < rows.length := h.1.symm ▸ hy
  exact ⟨rows[y], h.row_length hrow, slotAt_of_lt hrow,
    fun j hj => getD_flatMap_of_forall (fun row hr => hlen row (h.2 row hr)) hrow hj 0⟩

/-! ## The planar layouts (43_tile_encoder.md R230, R231, R234) -/

theorem planes_getLsbD {rows : List (List Byte)} (h : IsSquare rows 8) (k : Nat) {y x : Nat} (hy : y < 8)
    (hx : x < 8) : ((rows.map (planeByte k)).getD y 0).getLsbD (7 - x) = (slotAt rows y x).getLsbD k := by
  obtain ⟨row, hrow, hslot, hbyte⟩ := getD_map_rows h hy (planeByte k)
  rw [hbyte, planeByte_getLsbD hrow k hx, hslot]

theorem interleavedPlanes_getLsbD {rows : List (List Byte)} (h : IsSquare rows 8) (low high : Nat) {y x : Nat}
    (hy : y < 8) (hx : x < 8) :
    ((interleavedPlanes low high rows).getD (2 * y) 0).getLsbD (7 - x) = (slotAt rows y x).getLsbD low ∧
      ((interleavedPlanes low high rows).getD (2 * y + 1) 0).getLsbD (7 - x) =
        (slotAt rows y x).getLsbD high := by
  obtain ⟨row, hrow, hslot, hbyte⟩ := getD_flatMap_rows h hy
    (f := fun row => [planeByte low row, planeByte high row]) (k := 2) (fun _ _ => rfl)
  rw [hslot, ← planeByte_getLsbD hrow low hx, ← planeByte_getLsbD hrow high hx]
  exact ⟨congrArg (BitVec.getLsbD · (7 - x)) (hbyte 0 (by decide)),
    congrArg (BitVec.getLsbD · (7 - x)) (hbyte 1 (by decide))⟩

/-- Settles O28: each plane byte holds one bit of each slot of its row, and the layouts concatenate plane bytes. -/
theorem planarLayouts : Obligations.PlanarLayouts := by
  intro rows h
  refine ⟨patternBytes_length (L := .planar2) h, patternBytes_length (L := .inter2) h,
    patternBytes_length (L := .bp4) h, fun y hy x hx => ?_⟩
  have hplane : (rows.map (planeByte 0)).length = 8 := by simpa using h.1
  have hpair : (interleavedPlanes 0 1 rows).length = 16 := by rw [interleavedPlanes_length, h.1]
  obtain ⟨bit0, bit1⟩ := interleavedPlanes_getLsbD h 0 1 hy hx
  obtain ⟨bit2, bit3⟩ := interleavedPlanes_getLsbD h 2 3 hy hx
  simp only [patternBytes]
  refine ⟨?_, ?_, bit0, bit1, ?_, ?_, ?_, ?_⟩
  · rw [List.getD_append _ _ _ _ (by omega), planes_getLsbD h 0 hy hx]
  · rw [List.getD_append_right _ _ _ _ (by omega), hplane, Nat.add_sub_cancel_left, planes_getLsbD h 1 hy hx]
  · rw [List.getD_append _ _ _ _ (by omega), bit0]
  · rw [List.getD_append _ _ _ _ (by omega), bit1]
  · rw [List.getD_append_right _ _ _ _ (by omega), hpair, Nat.add_sub_cancel_left, bit2]
  · rw [List.getD_append_right _ _ _ _ (by omega), hpair, Nat.add_assoc, Nat.add_sub_cancel_left, bit3]

/-! ## The nibble and the linear layouts (43_tile_encoder.md R232, R233, R235) -/

theorem nibbleByte_toNat {high low : Byte} (hhigh : high.toNat < 16) (hlow : low.toNat < 16) :
    (nibbleByte high low).toNat = 16 * high.toNat + low.toNat := by
  have hshift : (high <<< 4).toNat = 2 ^ 4 * high.toNat := by
    rw [BitVec.toNat_shiftLeft, Nat.shiftLeft_eq]
    omega
  rw [nibbleByte, BitVec.toNat_or, hshift, ← Nat.two_pow_add_eq_or_of_lt hlow]

/-- Pair `j` of a row is columns `2j` and `2j + 1`. -/
theorem adjacentPairs_getD : ∀ (row : List Byte) {j : Nat}, 2 * j + 1 < row.length →
    (adjacentPairs row).getD j (0#8, 0#8) = (row.getD (2 * j) 0#8, row.getD (2 * j + 1) 0#8)
  | [], _, hj => by simp at hj
  | [_], _, hj => by simp at hj
  | _ :: _ :: _, 0, _ => rfl
  | _ :: _ :: rest, j + 1, hj => adjacentPairs_getD rest (by simp only [List.length_cons] at hj; omega)

/-- Byte `4y + j` of a nibble layout is made of columns `2j` and `2j + 1` of row y. -/
theorem nibbles_getD {rows : List (List Byte)} (h : IsSquare rows 8) (g : Byte × Byte → Byte) {y j : Nat}
    (hy : y < 8) (hj : j < 4) :
    (rows.flatMap fun row => (adjacentPairs row).map g).getD (4 * y + j) 0 =
      g (slotAt rows y (2 * j), slotAt rows y (2 * j + 1)) := by
  obtain ⟨row, hrow, hslot, hbyte⟩ := getD_flatMap_rows h hy (f := fun row => (adjacentPairs row).map g) (k := 4)
    fun row hr => by rw [List.length_map, adjacentPairs_length, hr]
  have hpair : j < (adjacentPairs row).length := by rw [adjacentPairs_length]; omega
  rw [hbyte j hj, getD_map_of_lt hpair, ← List.getD_eq_getElem _ (0#8, 0#8) hpair, adjacentPairs_getD row (by omega),
    hslot, hslot]

theorem slotAt_mem_of_lt {rows : List (List Byte)} {n y x : Nat} (h : IsSquare rows n) (hy : y < n) (hx : x < n) :
    ∃ row ∈ rows, slotAt rows y x ∈ row := by
  have hrow : y < rows.length := h.1.symm ▸ hy
  have hcol : x < rows[y].length := (h.row_length hrow).symm ▸ hx
  refine ⟨rows[y], List.getElem_mem hrow, ?_⟩
  rw [slotAt_of_lt hrow, List.getD_eq_getElem _ _ hcol]
  exact List.getElem_mem hcol

/-- Settles O29: each byte is made of one pair, the left slot high or low. -/
theorem nibbleLayouts : Obligations.NibbleLayouts := by
  intro rows h hsmall
  refine ⟨patternBytes_length (L := .nib4h) h, patternBytes_length (L := .nib4l) h, fun y hy j hj => ?_⟩
  have hslot (x : Nat) (hx : x < 8) : (slotAt rows y x).toNat < 16 := by
    obtain ⟨row, hrow, hmem⟩ := slotAt_mem_of_lt h hy hx
    exact hsmall row hrow _ hmem
  have hleft := hslot (2 * j) (by omega)
  have hright := hslot (2 * j + 1) (by omega)
  simp only [patternBytes, nibbles_getD h _ hy hj, nibbleByte_toNat hleft hright, nibbleByte_toNat hright hleft,
    and_self]

/-- Settles O30: the layout is the rows one after the other. -/
theorem linearLayout : Obligations.LinearLayout := by
  intro rows h
  refine ⟨patternBytes_length (L := .lin8) h, fun y hy x hx => ?_⟩
  obtain ⟨row, -, hslot, hbyte⟩ := getD_flatMap_rows h hy (f := id) fun _ hr => hr
  rw [hslot]
  exact hbyte x hx

/-! ## The monochrome layouts (43_tile_encoder.md R236, R237) -/

theorem maskBlock_length {rows : List (List Byte)} {x0 y0 : Nat} (hheight : y0 + 8 ≤ rows.length) :
    (maskBlock x0 y0 rows).length = 8 := by
  simp [maskBlock]
  omega

/-- Bit `7 - x` of row `r` of a block is the opacity of the pixel there. -/
theorem maskBlock_getLsbD {rows : List (List Byte)} {n x0 y0 : Nat} (h : IsSquare rows n) (hy : y0 + 8 ≤ n)
    (hx : x0 + 8 ≤ n) {r x : Nat} (hr : r < 8) (hx8 : x < 8) :
    ((maskBlock x0 y0 rows).getD r 0).getLsbD (7 - x) = decide (slotAt rows (y0 + r) (x0 + x) ≠ 0) := by
  have hrow : y0 + r < rows.length := by rw [h.1]; omega
  have hblock : r < ((rows.drop y0).take 8).length := by simp; omega
  rw [maskBlock, getD_map_of_lt hblock, List.getElem_take, List.getElem_drop,
    maskByte_getLsbD (by rw [h.row_length hrow]; exact hx) hx8, slotAt_of_lt hrow]
  rfl

/-- MONO1 without T16 is one block. -/
theorem patternBytes_mono1 {rows : List (List Byte)} (h : rows.length = 8) :
    patternBytes .mono1 rows = maskBlock 0 0 rows := by
  rw [maskBlock, List.drop_zero, List.take_of_length_le (by omega)]
  rfl

/-- The quadrants follow each other as R237 lists them. -/
theorem quadrants_getD {rows : List (List Byte)} (h : rows.length = 16) {r : Nat} (hr : r < 8) :
    ∀ q ∈ ([(0, 0, 0), (1, 0, 8), (2, 8, 0), (3, 8, 8)] : List (Nat × Nat × Nat)),
      (patternBytes .mono1T16 rows).getD (8 * q.1 + r) 0 = (maskBlock q.2.1 q.2.2 rows).getD r 0 := by
  have hflat : patternBytes .mono1T16 rows =
      [(0, 0), (0, 8), (8, 0), (8, 8)].flatMap fun c : Nat × Nat => maskBlock c.1 c.2 rows := by
    simp [patternBytes]
  have hlen : ∀ c ∈ ([(0, 0), (0, 8), (8, 0), (8, 8)] : List (Nat × Nat)),
      (maskBlock c.1 c.2 rows).length = 8 := by
    simp [maskBlock_length, h]
  have hquad (i : Nat) (hi : i < 4) := getD_flatMap_of_forall hlen (i := i) hi hr 0
  rw [hflat]
  simp only [List.forall_mem_cons, List.not_mem_nil, false_imp_iff, implies_true, and_true]
  exact ⟨hquad 0 (by decide), hquad 1 (by decide), hquad 2 (by decide), hquad 3 (by decide)⟩

theorem quadrant_fits : ∀ q ∈ ([(0, 0, 0), (1, 0, 8), (2, 8, 0), (3, 8, 8)] : List (Nat × Nat × Nat)),
    q.2.2 + 8 ≤ 16 ∧ q.2.1 + 8 ≤ 16 := by decide

/-- Byte `h` of a row's pair covers its columns `8h` to `8h + 7`. -/
theorem rowPairs_getLsbD {rows : List (List Byte)} (hsq : IsSquare rows 16) {y h i : Nat} (hy : y < 16) (hh : h < 2)
    (hi : i < 8) : ((patternBytes .mono1T16Rows rows).getD (2 * y + h) 0).getLsbD (7 - i) =
      decide (slotAt rows y (8 * h + i) ≠ 0) := by
  obtain ⟨row, hrow, hslot, hbyte⟩ := getD_flatMap_rows hsq hy (f := fun row => [maskByte 0 row, maskByte 8 row])
    (k := 2) (fun _ _ => rfl)
  have hhalf : [maskByte 0 row, maskByte 8 row].getD h 0 = maskByte (8 * h) row := by
    obtain rfl | rfl : h = 0 ∨ h = 1 := by omega
    all_goals rfl
  rw [hslot, patternBytes, hbyte h hh, hhalf, maskByte_getLsbD (by omega) hi]
  rfl

/-- The colour bytes of a foreground index that fits a nibble (43_tile_encoder.md R236). -/
theorem colorBytes_eq (L : TileLayout) {fg : Byte} (hfg : fg.toNat ≤ 15) :
    colorBytes L fg = List.replicate (colorLength L) (BitVec.ofNat 8 (16 * fg.toNat)) := by
  have hbyte : (nibbleByte fg 0#8).toNat = 16 * fg.toNat := nibbleByte_toNat (by omega) (by decide)
  rw [← hbyte, BitVec.ofNat_toNat, BitVec.setWidth_eq]
  rfl

/-- Settles O31: every pattern byte is the opacity of eight pixels of a row, and the layouts order those bytes. -/
theorem monochromeLayouts : Obligations.MonochromeLayouts := by
  refine ⟨fun rows h => ⟨patternBytes_length (L := .mono1) h, fun y hy x hx => ?_⟩, fun rows h => ?_,
    fun fg hfg => ?_⟩
  · rw [patternBytes_mono1 h.1, maskBlock_getLsbD h (by omega) (by omega) hy hx, Nat.zero_add, Nat.zero_add]
  · refine ⟨patternBytes_length (L := .mono1T16) h, patternBytes_length (L := .mono1T16Rows) h,
      fun q hq r hr i hi => ?_, fun y hy j hj i hi => rowPairs_getLsbD h hy hj hi⟩
    obtain ⟨hbottom, hright⟩ := quadrant_fits q hq
    rw [quadrants_getD h.1 hr q hq, maskBlock_getLsbD h hbottom hright hr hi]
  · exact ⟨colorBytes_eq .mono1 hfg, colorBytes_eq .mono1T16 hfg, colorBytes_eq .mono1T16Rows hfg⟩

/-! ## The lengths of an encoded tile (43_tile_encoder.md R225) -/

/-- Settles O32: an encoded tile has `plen` and `clen` bytes, and the nine rows of R225 give their values. -/
theorem encodedTileLengths : Obligations.EncodedTileLengths := by
  intro p hp
  have htable : tileEdge p.1 = p.2.1 ∧ patternLength p.1 = p.2.2.1 ∧ colorLength p.1 = p.2.2.2 := by
    revert p
    decide
  obtain ⟨hedge, hpat, hcol⟩ := htable
  exact ⟨hedge, hpat, hcol, fun fb w tx ty s e he => hpat ▸ hcol ▸ encodeTile_lengths he⟩

end Sys2Proof.Machine
end

section
/-! PROOFS. TILE and FRAME: the range checks in the order the rules give them, what tiles encode to, and the errors of
the two commands (43_tile_encoder.md R222 to R242, 60_exceptions.md R303). -/

namespace Sys2Proof.Machine

/-! ## The terms of the statements and of the model -/

theorem window_eq_tilePixels (L : TileLayout) (fb : Word) (w tx ty : Nat) (s : State) :
    window s fb w (tileEdge L) tx ty = tilePixels L fb w tx ty s := by
  simp only [window, tilePixels, pixel, Nat.add_assoc]

theorem slotRows_window (L : TileLayout) (fb : Word) (w tx ty : Nat) (s : State) :
    slotRows s (window s fb w (tileEdge L) tx ty) = tileSlots L fb w tx ty s := by
  rw [window_eq_tilePixels]
  rfl

theorem missesOf_window (L : TileLayout) (fb : Word) (w tx ty : Nat) (s : State) :
    missesOf s (window s fb w (tileEdge L) tx ty) = tileMisses L fb w tx ty s := by
  rw [window_eq_tilePixels, tileMisses, List.filter_flatten]
  rfl

theorem needsFixedTable_iff {L : TileLayout} {s : State} :
    needsFixedTable L s = true ↔ isMono L = true ∧ 1 ≤ s.lutN.toNat := by
  simp [needsFixedTable]

theorem tileEdge_pos (L : TileLayout) : 0 < tileEdge L := by cases L <;> decide

/-! ## The range checks as two lists (60_exceptions.md R303, 20_memory.md R80) -/

/-- The ranges of a list checked in order: the first one outside BUF decides. `checkTileRanges_eq` ties this and
`checkPairs` to the model. -/
def checkRanges (s : State) : List ByteRange → Except Err Unit
  | [] => .ok ()
  | r :: rest => checkRange s r >>= fun _ => checkRanges s rest

/-- The pairs of a list checked in order: the first one that overlaps decides. -/
def checkPairs (pairs : List (ByteRange × ByteRange)) : Except Err Unit :=
  match pairs.find? fun p => decide (overlaps p.1 p.2) with
  | some p => .error ⟨.overlap, p.1.base, p.2.base⟩
  | none => .ok ()

theorem checkRanges_eq_ok {s : State} {ranges : List ByteRange} {u : Unit} :
    checkRanges s ranges = .ok u ↔ ∀ r ∈ ranges, inRange s r := by
  induction ranges with
  | nil => simp [checkRanges]
  | cons r rest ih => simp only [checkRanges, bind_eq_ok, checkRange_eq_ok, exists_const, ih, List.forall_mem_cons]

theorem checkRanges_of_first {s : State} {pre post : List ByteRange} {r : ByteRange}
    (hpre : ∀ q ∈ pre, inRange s q) (hr : ¬ inRange s r) :
    checkRanges s (pre ++ r :: post) = .error ⟨.bounds, r.base, clipWord r.len⟩ := by
  induction pre with
  | nil =>
    rw [List.nil_append, checkRanges, checkRange_eq_error.2 ⟨hr, rfl⟩]
    rfl
  | cons q rest ih =>
    rw [List.cons_append, checkRanges, checkRange_eq_ok (u := ()).2 (hpre q (by simp))]
    exact ih fun p hp => hpre p (by simp [hp])

theorem checkPairs_eq_ok {pairs : List (ByteRange × ByteRange)} {u : Unit} :
    checkPairs pairs = .ok u ↔ ∀ p ∈ pairs, ¬ overlaps p.1 p.2 := by
  have hfind : (pairs.find? fun p => decide (overlaps p.1 p.2)) = none ↔ ∀ p ∈ pairs, ¬ overlaps p.1 p.2 := by
    simp only [List.find?_eq_none, decide_eq_true_iff]
  rw [checkPairs, ← hfind]
  cases pairs.find? fun p => decide (overlaps p.1 p.2) <;> simp

/-- The first element of a list that meets a test. -/
theorem find?_of_first {α : Type} {p : α → Prop} [DecidablePred p] {l pre post : List α} {x : α}
    (hl : l = pre ++ x :: post) (hpre : ∀ y ∈ pre, ¬ p y) (hx : p x) :
    (l.find? fun y => decide (p y)) = some x :=
  List.find?_eq_some_iff_append.2
    ⟨decide_eq_true hx, pre, post, hl, fun y hy => by rw [decide_eq_false (hpre y hy)]; rfl⟩

theorem checkPairs_of_first {pre post : List (ByteRange × ByteRange)} {p : ByteRange × ByteRange}
    (hpre : ∀ q ∈ pre, ¬ overlaps q.1 q.2) (hp : overlaps p.1 p.2) :
    checkPairs (pre ++ p :: post) = .error ⟨.overlap, p.1.base, p.2.base⟩ := by
  rw [checkPairs, find?_of_first rfl hpre hp]

theorem checkOverlap_eq_checkPairs (out col : ByteRange) (reads : List ByteRange) :
    checkOverlap out col reads =
      checkPairs ((reads ++ [col]).map (fun r => (out, r)) ++ reads.map fun r => (col, r)) := by
  have hfind (w : ByteRange) (rs : List ByteRange) :
      ((rs.map fun r => (w, r)).find? fun p => decide (overlaps p.1 p.2)) = (firstOverlap w rs).map fun r => (w, r) :=
    List.find?_map ..
  rw [checkOverlap, checkPairs, List.find?_append, hfind, hfind]
  cases firstOverlap out (reads ++ [col]) with
  | some r => rfl
  | none => cases firstOverlap col reads <;> rfl

/-- The checks of TILE and FRAME on their ranges, in the order of the rules. -/
theorem checkTileRanges_eq (L : TileLayout) (fb : Word) (w h n : Nat) (s : State) :
    checkTileRanges L fb w h n s =
      (checkRanges s (tileRangesInOrder L fb w h n s) >>= fun _ => checkPairs (tilePairsInOrder L fb w h n s)) := by
  rw [checkTileRanges, checkOverlap_eq_checkPairs, tileRangesInOrder, tilePairsInOrder, tileReads]
  simp only [needsFixedTable_iff, frameRange, tileOutRange, tileColRange, fixRange]
  by_cases hfix : isMono L = true ∧ 1 ≤ s.lutN.toNat
  · simp only [hfix, and_self, if_true, checkRanges, List.cons_append, List.nil_append, bind_assoc]
    rfl
  · simp only [hfix, if_false, checkRanges, List.cons_append, List.nil_append, bind_assoc]
    rfl

theorem tileRangesInside_iff {L : TileLayout} {fb : Word} {w h n : Nat} {s : State} :
    TileRangesInside L fb w h n s ↔ ∀ r ∈ tileRangesInOrder L fb w h n s, inRange s r := by
  by_cases hfix : isMono L = true ∧ 1 ≤ s.lutN.toNat
  · rw [tileRangesInOrder, if_pos hfix]
    simp only [List.cons_append, List.nil_append, List.forall_mem_cons, List.not_mem_nil, false_imp_iff, implies_true,
      and_true]
    exact ⟨fun ⟨frame, out, col, fix⟩ => ⟨frame, out, col, fix hfix.1 hfix.2⟩,
      fun ⟨frame, out, col, fix⟩ => ⟨frame, out, col, fun _ _ => fix⟩⟩
  · rw [tileRangesInOrder, if_neg hfix]
    simp only [List.append_nil, List.forall_mem_cons, List.not_mem_nil, false_imp_iff, implies_true,
      and_true]
    exact ⟨fun ⟨frame, out, col, _⟩ => ⟨frame, out, col⟩,
      fun ⟨frame, out, col⟩ => ⟨frame, out, col, fun hmono hcolors => absurd ⟨hmono, hcolors⟩ hfix⟩⟩

theorem tileRangesDisjoint_iff {L : TileLayout} {fb : Word} {w h n : Nat} {s : State} :
    TileRangesDisjoint L fb w h n s ↔ ∀ p ∈ tilePairsInOrder L fb w h n s, ¬ overlaps p.1 p.2 := by
  by_cases hfix : isMono L = true ∧ 1 ≤ s.lutN.toNat
  · rw [tilePairsInOrder, if_pos hfix]
    simp only [List.map_cons, List.map_nil, List.cons_append, List.nil_append, List.forall_mem_cons,
      List.not_mem_nil, false_imp_iff, implies_true, and_true]
    exact ⟨fun ⟨outFrame, outCol, colFrame, fix⟩ =>
        ⟨outFrame, (fix hfix.1 hfix.2).1, outCol, colFrame, (fix hfix.1 hfix.2).2⟩,
      fun ⟨outFrame, outFix, outCol, colFrame, colFix⟩ =>
        ⟨outFrame, outCol, colFrame, fun _ _ => ⟨outFix, colFix⟩⟩⟩
  · rw [tilePairsInOrder, if_neg hfix]
    simp only [List.map_cons, List.map_nil, List.cons_append, List.nil_append, List.forall_mem_cons,
      List.not_mem_nil, false_imp_iff, implies_true, and_true]
    exact ⟨fun ⟨outFrame, outCol, colFrame, _⟩ => ⟨outFrame, outCol, colFrame⟩,
      fun ⟨outFrame, outCol, colFrame⟩ =>
        ⟨outFrame, outCol, colFrame, fun hmono hcolors => absurd ⟨hmono, hcolors⟩ hfix⟩⟩

theorem checkTileRanges_ok_iff {L : TileLayout} {fb : Word} {w h n : Nat} {s : State} {u : Unit} :
    checkTileRanges L fb w h n s = .ok u ↔ TileRangesInside L fb w h n s ∧ TileRangesDisjoint L fb w h n s := by
  rw [checkTileRanges_eq, tileRangesInside_iff, tileRangesDisjoint_iff]
  simp only [bind_eq_ok, checkRanges_eq_ok, checkPairs_eq_ok, exists_const]

/-! ## The foreground index of MONO1 (43_tile_encoder.md R228) -/

theorem fixLookup_absent {s : State} {x : Rgb}
    (h : ∀ j < s.fixCount.toNat, (fixEntry s j).toNat % 2 ^ 24 ≠ x.toNat) :
    fixLookup s x = none :=
  fixLookup_of_absent fun j hj hmatch => h j hj (eq_rgbOf_iff.1 hmatch.symm).symm

/-- The first entry with a colour gives its code. -/
theorem fixLookup_first {s : State} {x : Rgb} {i : Nat} (hi : i < s.fixCount.toNat)
    (hmatch : (fixEntry s i).toNat % 2 ^ 24 = x.toNat)
    (hbefore : ∀ j < i, (fixEntry s j).toNat % 2 ^ 24 ≠ x.toNat) :
    fixLookup s x = some (i, BitVec.ofNat 8 (channel (fixEntry s i) 3)) := by
  rw [fixLookup_of_first hi (eq_rgbOf_iff.2 hmatch.symm).symm fun j hj he => hbefore j hj (eq_rgbOf_iff.1 he.symm).symm,
    alphaOf_eq]

section Foreground
variable {s : State}

theorem lutN_ne_zero (h : 1 ≤ s.lutN.toNat) : s.lutN ≠ 0#8 := fun he => by simp [he] at h

theorem foreground_of_absent (hcolors : 1 ≤ s.lutN.toNat) (h : fixLookup s (lutSlot s 1) = none) :
    foreground s = .error ⟨.notInPalette, 1#32, BitVec.ofNat 32 (lutSlot s 1).toNat⟩ := by
  rw [foreground, if_neg (lutN_ne_zero hcolors), h, BitVec.ofNat_toNat]

theorem foreground_of_large {i : Nat} {k : Nat} (hcolors : 1 ≤ s.lutN.toNat)
    (h : fixLookup s (lutSlot s 1) = some (i, BitVec.ofNat 8 k)) (hbyte : k < 256) (hlarge : 15 < k) :
    foreground s = .error ⟨.range, BitVec.ofNat 32 k, 16#32⟩ := by
  have hk : (BitVec.ofNat 8 k).toNat = k := Nat.mod_eq_of_lt hbyte
  rw [foreground, if_neg (lutN_ne_zero hcolors), h]
  simp only [hk, if_pos hlarge, ← BitVec.ofNat_toNat]

theorem foreground_of_small {i : Nat} {k : Nat} (hcolors : 1 ≤ s.lutN.toNat)
    (h : fixLookup s (lutSlot s 1) = some (i, BitVec.ofNat 8 k)) (hsmall : k ≤ 15) :
    foreground s = .ok (BitVec.ofNat 8 k) := by
  have hk : (BitVec.ofNat 8 k).toNat = k := Nat.mod_eq_of_lt (by omega)
  rw [foreground, if_neg (lutN_ne_zero hcolors), h]
  simp only [hk, if_neg (Nat.not_lt.2 hsmall)]

end Foreground

/-- A foreground index of the statements is the one the model finds, and it fits a nibble. -/
theorem layoutForeground_of_is {L : TileLayout} {s : State} {fg : Nat} (h : ForegroundIs L s fg) :
    layoutForeground L s = .ok (BitVec.ofNat 8 fg) ∧ fg ≤ 15 := by
  unfold ForegroundIs at h
  split at h
  case isTrue hneeds =>
    obtain ⟨hmono, hcolors⟩ := hneeds
    obtain ⟨hsmall, i, hi, hentry, hbefore⟩ := h
    have hcolor := (lutSlot s 1).isLt
    have hcode : channel (fixEntry s i) 3 = fg := by rw [channel]; omega
    have hlookup := fixLookup_first hi (by omega) hbefore
    rw [hcode] at hlookup
    rw [layoutForeground, if_pos hmono]
    exact ⟨foreground_of_small hcolors hlookup hsmall, hsmall⟩
  case isFalse hneeds =>
    subst h
    refine ⟨?_, by decide⟩
    unfold layoutForeground
    split
    case isTrue hmono =>
      have hempty : s.lutN = 0#8 := BitVec.eq_of_toNat_eq (by simpa [hmono] using hneeds)
      rw [foreground, if_pos hempty]
    case isFalse => rfl

/-! ## What tiles encode to (43_tile_encoder.md R238, R241) -/

/-- The outputs of tiles that encode, in order, with `fg` as the foreground index; `encodeTiles_of_fits` ties it to
`encodeTiles`. -/
def encodedTiles (L : TileLayout) (fb : Word) (w fg : Nat) (s : State) (tiles : List (Nat × Nat)) : Encoded where
  pat := tiles.flatMap fun c => patternBytes L (tileSlots L fb w c.1 c.2 s)
  col := List.replicate (tiles.length * colorLength L) (BitVec.ofNat 8 (16 * fg))
  misses := tiles.flatMap fun c => tileMisses L fb w c.1 c.2 s

theorem encodeTile_eq (L : TileLayout) (fb : Word) (w tx ty : Nat) (s : State) :
    encodeTile L fb w tx ty s = (checkSlots L (tileSlots L fb w tx ty s) >>= fun _ =>
      layoutForeground L s >>= fun fg =>
        pure ⟨patternBytes L (tileSlots L fb w tx ty s), colorBytes L fg, tileMisses L fb w tx ty s⟩) := by
  rw [← slotRows_window, ← missesOf_window]
  rfl

theorem encodeTile_of_fits {L : TileLayout} {fb : Word} {w tx ty fg : Nat} {s : State}
    (hfits : TileSlotsFit L fb w tx ty s) (hfg : ForegroundIs L s fg) :
    encodeTile L fb w tx ty s = .ok (encodedTiles L fb w fg s [(tx, ty)]) := by
  obtain ⟨hlayout, hsmall⟩ := layoutForeground_of_is hfg
  have hbyte : (BitVec.ofNat 8 fg).toNat = fg := Nat.mod_eq_of_lt (by omega)
  have hcol := colorBytes_eq L (hbyte.symm ▸ hsmall : (BitVec.ofNat 8 fg).toNat ≤ 15)
  rw [hbyte] at hcol
  rw [encodeTile_eq, checkSlots_eq_ok (u := ()).2 hfits, hlayout]
  simp [bind, Except.bind, pure, Except.pure, encodedTiles, hcol]

theorem encodeTiles_of_fits {L : TileLayout} {fb : Word} {w fg : Nat} {s : State} {tiles : List (Nat × Nat)}
    (hfits : ∀ c ∈ tiles, TileSlotsFit L fb w c.1 c.2 s) (hfg : ForegroundIs L s fg) :
    encodeTiles L fb w s tiles = .ok (encodedTiles L fb w fg s tiles) := by
  induction tiles with
  | nil => simp [encodeTiles, encodedTiles]
  | cons c rest ih =>
    obtain ⟨tx, ty⟩ := c
    rw [encodeTiles, encodeTile_of_fits (hfits (tx, ty) (by simp)) hfg, ih fun c hc => hfits c (by simp [hc])]
    simp [bind, Except.bind, pure, Except.pure, encodedTiles, Nat.succ_mul, Nat.add_comm]

/-- The first slot that needs more bits than a layout has; `checkSlots_of_wide` and `checkSlots_of_narrow`
tie it to `checkSlots`. -/
def firstWide (L : TileLayout) (slots : List Byte) : Option Byte :=
  slots.find? fun slot => decide (2 ^ bitsPerPixel L ≤ slot.toNat)

theorem firstWide_of_first {L : TileLayout} {slots pre post : List Byte} {slot : Byte}
    (hlist : slots = pre ++ slot :: post) (hpre : ∀ q ∈ pre, q.toNat < 2 ^ bitsPerPixel L)
    (hwide : 2 ^ bitsPerPixel L ≤ slot.toNat) : firstWide L slots = some slot :=
  find?_of_first hlist (fun q hq => Nat.not_le.2 (hpre q hq)) hwide

theorem checkSlots_of_wide {L : TileLayout} {rows : List (List Byte)} {slot : Byte} (hmono : isMono L = false)
    (h : firstWide L rows.flatten = some slot) :
    checkSlots L rows = .error ⟨.range, BitVec.ofNat 32 slot.toNat, BitVec.ofNat 32 (2 ^ bitsPerPixel L)⟩ := by
  rw [firstWide] at h
  rw [checkSlots, if_neg (by simp [hmono]), List.flatMap_id, h, BitVec.ofNat_toNat]

theorem checkSlots_of_narrow {L : TileLayout} {rows : List (List Byte)} (hmono : isMono L = false)
    (h : firstWide L rows.flatten = none) : checkSlots L rows = .ok () := by
  rw [firstWide] at h
  rw [checkSlots, if_neg (by simp [hmono]), List.flatMap_id, h]

/-- The first slot of a tile that is too wide for the format decides. -/
theorem encodeTile_of_wide {L : TileLayout} {fb : Word} {w tx ty : Nat} {s : State} {slot : Byte}
    (hmono : isMono L = false) (h : firstWide L (tileSlots L fb w tx ty s).flatten = some slot) :
    encodeTile L fb w tx ty s =
      .error ⟨.range, BitVec.ofNat 32 slot.toNat, BitVec.ofNat 32 (2 ^ bitsPerPixel L)⟩ := by
  rw [encodeTile_eq, checkSlots_of_wide hmono h]
  rfl

theorem encodeTile_of_narrow {L : TileLayout} {fb : Word} {w tx ty : Nat} {s : State} (hmono : isMono L = false)
    (h : firstWide L (tileSlots L fb w tx ty s).flatten = none) : ∃ e, encodeTile L fb w tx ty s = .ok e := by
  rw [encodeTile_eq, checkSlots_of_narrow hmono h, layoutForeground, if_neg (by simp [hmono])]
  exact ⟨_, rfl⟩

/-- The first slot too wide, whichever tile it stands in, decides for the whole list of tiles. -/
theorem encodeTiles_of_wide {L : TileLayout} {fb : Word} {w : Nat} {s : State} {tiles : List (Nat × Nat)} {slot : Byte}
    (hmono : isMono L = false)
    (h : firstWide L (tiles.flatMap fun c => (tileSlots L fb w c.1 c.2 s).flatten) = some slot) :
    encodeTiles L fb w s tiles =
      .error ⟨.range, BitVec.ofNat 32 slot.toNat, BitVec.ofNat 32 (2 ^ bitsPerPixel L)⟩ := by
  induction tiles with
  | nil => simp [firstWide] at h
  | cons c rest ih =>
    obtain ⟨tx, ty⟩ := c
    rw [List.flatMap_cons, firstWide, List.find?_append] at h
    rw [encodeTiles]
    cases hfirst : firstWide L (tileSlots L fb w tx ty s).flatten with
    | some wide =>
      rw [← firstWide, hfirst, Option.some_or] at h
      rw [encodeTile_of_wide hmono (hfirst.trans h)]
      rfl
    | none =>
      rw [← firstWide, hfirst, Option.none_or] at h
      obtain ⟨e, he⟩ := encodeTile_of_narrow hmono hfirst
      rw [he, ih h]
      rfl

theorem encodeTile_of_foreground_error {L : TileLayout} {s : State} {e : Err} (hmono : isMono L = true)
    (h : foreground s = .error e) (fb : Word) (w tx ty : Nat) : encodeTile L fb w tx ty s = .error e := by
  rw [encodeTile_eq, checkSlots, if_pos hmono, layoutForeground, if_pos hmono, h]
  rfl

/-- A foreground error stands in the first tile already. -/
theorem encodeTiles_of_foreground_error {L : TileLayout} {s : State} {e : Err} {tiles : List (Nat × Nat)}
    (hmono : isMono L = true) (h : foreground s = .error e) (hsome : tiles ≠ []) (fb : Word) (w : Nat) :
    encodeTiles L fb w s tiles = .error e := by
  cases tiles with
  | nil => exact absurd rfl hsome
  | cons c rest =>
    rw [encodeTiles, encodeTile_of_foreground_error hmono h]
    rfl

/-! ## What TILE and FRAME share after their own first check (43_tile_encoder.md R240, R241) -/

/-- NO_MAP, the range checks for `n` tiles, the encoding, and the writes; `tileBody_of_inside` and
`frameBody_of_dimensions` tie it to the two commands. -/
def outputBody (L : TileLayout) (fb : Word) (w h n : Nat) (encoding : Except Err Encoded) (s : State) :
    Except Err State := do
  checkMapped s
  checkTileRanges L fb w h n s
  let e ← encoding
  return emit e s

theorem tileBody_of_inside {L : TileLayout} {w h tx ty : Half} (hw : (tx.toNat + 1) * tileEdge L ≤ w.toNat)
    (hh : (ty.toNat + 1) * tileEdge L ≤ h.toNat) (fb : Word) (s : State) :
    tileBody L fb w h tx ty s =
      outputBody L fb w.toNat h.toNat 1 (encodeTile L fb w.toNat tx.toNat ty.toNat s) s := by
  rw [tileBody, checkInside_eq_ok (u := ()).2 ⟨hw, hh⟩]
  rfl

theorem tileBody_of_outside {L : TileLayout} {w h tx ty : Half}
    (hout : w.toNat < (tx.toNat + 1) * tileEdge L ∨ h.toNat < (ty.toNat + 1) * tileEdge L) (fb : Word) (s : State) :
    tileBody L fb w h tx ty s = .error ⟨.range, ty ++ tx, h ++ w⟩ := by
  rw [tileBody, checkInside, if_pos hout]
  rfl

theorem dimensionFails_eq_false_iff {v T : Nat} : dimensionFails v T = false ↔ 0 < v ∧ v % T = 0 := by
  simp [dimensionFails, Nat.pos_iff_ne_zero]

theorem frameBody_of_dimensions {L : TileLayout} {w h : Half} (hw : 0 < w.toNat ∧ w.toNat % tileEdge L = 0)
    (hh : 0 < h.toNat ∧ h.toNat % tileEdge L = 0) (fb : Word) (s : State) :
    frameBody L fb w h s = outputBody L fb w.toNat h.toNat (w.toNat / tileEdge L * (h.toNat / tileEdge L))
      (encodeTiles L fb w.toNat s (rasterTiles L w.toNat h.toNat)) s := by
  rw [frameBody, checkDimensions_eq_ok (u := ()).2
    ⟨dimensionFails_eq_false_iff.2 hw, dimensionFails_eq_false_iff.2 hh⟩]
  rfl

section OutputBody
variable {L : TileLayout} {fb : Word} {w h n : Nat} {s : State} {encoding : Except Err Encoded}

theorem outputBody_of_unmapped (hvalid : s.lutValid = false) :
    outputBody L fb w h n encoding s = .error ⟨.noMap, 0#32, 0#32⟩ := by
  rw [outputBody, checkMapped_eq_error.2 ⟨hvalid, rfl⟩]
  rfl

theorem outputBody_of_range_error {e : Err} (hvalid : s.lutValid = true)
    (herr : checkTileRanges L fb w h n s = .error e) : outputBody L fb w h n encoding s = .error e := by
  rw [outputBody, checkMapped_eq_ok (u := ()).2 hvalid, herr]
  rfl

theorem outputBody_of_first_outside {pre post : List ByteRange} {r : ByteRange} (hvalid : s.lutValid = true)
    (hlist : tileRangesInOrder L fb w h n s = pre ++ r :: post) (hpre : ∀ q ∈ pre, inRange s q)
    (hr : ¬ inRange s r) : outputBody L fb w h n encoding s = .error ⟨.bounds, r.base, clipWord r.len⟩ := by
  refine outputBody_of_range_error hvalid ?_
  rw [checkTileRanges_eq, hlist, checkRanges_of_first hpre hr]
  rfl

theorem outputBody_of_first_overlap {pre post : List (ByteRange × ByteRange)} {p : ByteRange × ByteRange}
    (hvalid : s.lutValid = true) (hin : ∀ q ∈ tileRangesInOrder L fb w h n s, inRange s q)
    (hlist : tilePairsInOrder L fb w h n s = pre ++ p :: post) (hpre : ∀ q ∈ pre, ¬ overlaps q.1 q.2)
    (hp : overlaps p.1 p.2) : outputBody L fb w h n encoding s = .error ⟨.overlap, p.1.base, p.2.base⟩ := by
  refine outputBody_of_range_error hvalid ?_
  rw [checkTileRanges_eq, checkRanges_eq_ok (u := ()).2 hin, hlist]
  exact checkPairs_of_first hpre hp

theorem outputBody_of_ready (hvalid : s.lutValid = true) (hin : TileRangesInside L fb w h n s)
    (hdis : TileRangesDisjoint L fb w h n s) :
    outputBody L fb w h n encoding s = encoding >>= fun e => pure (emit e s) := by
  rw [outputBody, checkMapped_eq_ok (u := ()).2 hvalid, checkTileRanges_ok_iff (u := ()).2 ⟨hin, hdis⟩]
  rfl

theorem complete_outputBody_of_encoding_error {e : Err} (hvalid : s.lutValid = true)
    (hin : TileRangesInside L fb w h n s) (hdis : TileRangesDisjoint L fb w h n s) (herr : encoding = .error e) :
    complete s (outputBody L fb w h n encoding s) = .next (abortedState e.code e.a e.b s) := by
  rw [outputBody_of_ready hvalid hin hdis, herr]
  rfl

end OutputBody

/-! ## The errors of TILE (43_tile_encoder.md R240) -/

theorem append_half_eq (x y : Half) : x ++ y = BitVec.ofNat 32 (x.toNat * 65536 + y.toNat) := by
  apply BitVec.eq_of_toNat_eq
  have hx := x.isLt
  have hy := y.isLt
  rw [toNat_append_eq_add, BitVec.toNat_ofNat]
  omega

/-- Settles O34, check by check in the order of `tileBody`. -/
theorem tileErrorsInOrder : Obligations.TileErrorsInOrder := by
  intro L fb w h tx ty s
  rw [exec_tileInstr]
  refine ⟨fun hout => ?_, fun hw hh => ?_⟩
  · rw [tileBody_of_outside hout, append_half_eq, append_half_eq]
    rfl
  · rw [tileBody_of_inside hw hh]
    refine ⟨fun hvalid => ?_, fun hvalid => ⟨fun pre r post hlist hpre hr => ?_,
      fun hin pre p post hlist hpre hp => ?_⟩⟩
    · rw [outputBody_of_unmapped hvalid]
      rfl
    · rw [outputBody_of_first_outside hvalid hlist hpre hr]
      rfl
    · rw [outputBody_of_first_overlap hvalid hin hlist hpre hp]
      rfl

/-- Settles O35: the slots are checked in row-major order, and the foreground is looked up in the fixed table. -/
theorem tileContentErrors : Obligations.TileContentErrors := by
  intro L fb w h tx ty s hw hh hvalid hin hdis
  rw [exec_tileInstr, tileBody_of_inside hw hh]
  refine ⟨fun hmono pre slot post hlist hpre hwide => ?_, fun hmono hcolors habsent => ?_,
    fun hmono hcolors i hi hmatch hbefore hlarge => ?_⟩
  · exact complete_outputBody_of_encoding_error hvalid hin hdis (encodeTile_of_wide hmono
      (firstWide_of_first hlist hpre hwide))
  · exact complete_outputBody_of_encoding_error hvalid hin hdis (encodeTile_of_foreground_error hmono
      (foreground_of_absent hcolors (fixLookup_absent habsent)) fb _ _ _)
  · exact complete_outputBody_of_encoding_error hvalid hin hdis (encodeTile_of_foreground_error hmono
      (foreground_of_large hcolors (fixLookup_first hi hmatch hbefore) (channel_lt _ 3) hlarge) fb _ _ _)

/-! ## The errors of FRAME (43_tile_encoder.md R241, R242) -/

theorem rasterTiles_ne_nil {L : TileLayout} {w h : Nat} (hw : 0 < w ∧ w % tileEdge L = 0)
    (hh : 0 < h ∧ h % tileEdge L = 0) : rasterTiles L w h ≠ [] := by
  have hnx : 0 < w / tileEdge L := Nat.div_pos (Nat.le_of_dvd hw.1 (Nat.dvd_of_mod_eq_zero hw.2)) (tileEdge_pos L)
  have hny : 0 < h / tileEdge L := Nat.div_pos (Nat.le_of_dvd hh.1 (Nat.dvd_of_mod_eq_zero hh.2)) (tileEdge_pos L)
  refine List.ne_nil_of_mem (a := (0, 0)) ?_
  simp [rasterTiles, hnx, hny]

/-- Settles O38: the checks of TILE in the same order, and the first failing tile decides. -/
theorem frameErrorsInOrder : Obligations.FrameErrorsInOrder := by
  rintro L fb w h s n hw hwT hh hhT rfl
  have hsome := rasterTiles_ne_nil ⟨hw, hwT⟩ ⟨hh, hhT⟩
  rw [exec_frameInstr, frameBody_of_dimensions ⟨hw, hwT⟩ ⟨hh, hhT⟩]
  refine ⟨fun hvalid => ?_, fun hvalid => ⟨fun pre r post hlist hpre hr => ?_, fun hin => ⟨?_, ?_, ?_⟩⟩⟩
  · rw [outputBody_of_unmapped hvalid]
    rfl
  · rw [outputBody_of_first_outside hvalid hlist hpre hr]
    rfl
  · intro pre p post hlist hpre hp
    rw [outputBody_of_first_overlap hvalid hin hlist hpre hp]
    rfl
  · intro hdis hmono pre slot post hlist hpre hwide
    exact complete_outputBody_of_encoding_error hvalid (tileRangesInside_iff.2 hin) (tileRangesDisjoint_iff.2 hdis)
      (encodeTiles_of_wide hmono (firstWide_of_first hlist hpre hwide))
  · intro hdis hmono hcolors
    have aborts {e : Err} (herr : foreground s = .error e) := complete_outputBody_of_encoding_error hvalid
      (tileRangesInside_iff.2 hin) (tileRangesDisjoint_iff.2 hdis)
      (encodeTiles_of_foreground_error hmono herr hsome fb w.toNat)
    exact ⟨fun habsent => aborts (foreground_of_absent hcolors (fixLookup_absent habsent)),
      fun i hi hmatch hbefore hlarge => aborts
        (foreground_of_large hcolors (fixLookup_first hi hmatch hbefore) (channel_lt _ 3) hlarge)⟩

/-- The only multiple of T between two neighbouring ones. -/
theorem eq_of_mul_bounds {T a b : Nat} (hlow : T * b < T * a + T) (hhigh : T * a < T * b + T) : a = b := by
  rw [← Nat.mul_succ] at hlow hhigh
  exact Nat.le_antisymm (Nat.le_of_lt_succ (Nat.lt_of_mul_lt_mul_left hhigh))
    (Nat.le_of_lt_succ (Nat.lt_of_mul_lt_mul_left hlow))

/-- The suggestion of an axis that fails is the multiple of T between the bounds of R242. -/
theorem suggest_eq {v T m : Nat} (hv : ¬ T ∣ v) (hm : T ∣ m)
    (hup : v / T * T + T ≤ 65535 → v < m ∧ m < v + T) (hdown : 65535 < v / T * T + T → m ≤ v ∧ v < m + T)
    (hpos : 0 < T) : suggest v T = m := by
  obtain ⟨k, rfl⟩ := hm
  have hv0 : v ≠ 0 := fun h0 => hv (h0 ▸ Nat.dvd_zero T)
  have hrem : 0 < v % T := Nat.pos_of_ne_zero fun h0 => hv (Nat.dvd_of_mod_eq_zero h0)
  have hlt := Nat.mod_lt v hpos
  have hdiv := Nat.div_add_mod v T
  have hmul : (v / T + 1) * T = T * (v / T) + T := by ring
  have hfloor : v / T * T = T * (v / T) := Nat.mul_comm ..
  have hceil : (v + T - 1) / T = v / T + 1 := by
    rw [Nat.div_eq_iff hpos]
    omega
  rw [suggest, if_neg hv0, hceil, hmul, hfloor]
  rw [hfloor] at hup hdown
  split
  case isTrue hfits =>
    obtain ⟨hlow, hhigh⟩ := hup hfits
    have hk : v / T + 1 = k := eq_of_mul_bounds (T := T) (by rw [Nat.mul_succ]; omega) (by rw [Nat.mul_succ]; omega)
    rw [← hk, Nat.mul_succ]
  case isFalse hlarge =>
    obtain ⟨hlow, hhigh⟩ := hdown (Nat.lt_of_not_le hlarge)
    rw [eq_of_mul_bounds (T := T) (a := v / T) (b := k) (by omega) (by omega)]

theorem suggest_le {v T : Nat} (hv : v ≤ 65535) (hT : T ≤ 65535) : suggest v T ≤ 65535 := by
  unfold suggest
  split
  · exact hT
  · split
    case isTrue hfits => exact hfits
    case isFalse => exact (Nat.div_mul_le_self v T).trans hv

section Dimension
variable {T : Nat} {fails : Nat → Bool} {sug : Nat → Nat}

theorem dimensionFails_eq (hfails : ∀ v, fails v = true ↔ v = 0 ∨ ¬ T ∣ v) (v : Nat) :
    dimensionFails v T = fails v := by
  rw [Bool.eq_iff_iff, hfails, Nat.dvd_iff_mod_eq_zero]
  simp [dimensionFails]

/-- An axis's half of ERR_B is the suggestion of the statement. -/
theorem axisSuggestion_toNat (hpos : 0 < T) (hsmall : T ≤ 65535)
    (hfails : ∀ v, fails v = true ↔ v = 0 ∨ ¬ T ∣ v) (hpass : ∀ v, fails v = false → sug v = 0)
    (hzero : fails 0 = true → sug 0 = T)
    (hsug : ∀ v, v ≠ 0 → fails v = true →
      T ∣ sug v ∧ (v / T * T + T ≤ 65535 → v < sug v ∧ sug v < v + T) ∧
        (65535 < v / T * T + T → sug v ≤ v ∧ v < sug v + T)) (v : Half) :
    (axisSuggestion v.toNat T).toNat = sug v.toNat := by
  rw [axisSuggestion, dimensionFails_eq hfails]
  cases hf : fails v.toNat with
  | false => rw [hpass _ hf]; rfl
  | true =>
    have hfits := suggest_le (Nat.le_of_lt_succ v.isLt) hsmall
    rw [if_pos rfl, BitVec.toNat_ofNat, Nat.mod_eq_of_lt (by omega)]
    by_cases h0 : v.toNat = 0
    · rw [h0] at hf ⊢
      exact (hzero hf).symm
    · obtain ⟨hdvd, hup, hdown⟩ := hsug _ h0 hf
      exact suggest_eq (((hfails _).1 hf).resolve_left h0) hdvd hup hdown hpos

end Dimension

theorem dimensionFlags (fh fw : Bool) :
    0#30 ++ BitVec.ofBool fh ++ BitVec.ofBool fw = BitVec.ofNat 32 (fw.toNat + 2 * fh.toNat) := by
  cases fh <;> cases fw <;> rfl

theorem tileEdge_le (L : TileLayout) : tileEdge L ≤ 16 := by cases L <;> decide

/-- Settles O37: the flags and the suggestions are those of `checkDimensions`, FRAME's first check. -/
theorem frameDimensionErrors : Obligations.FrameDimensionErrors := by
  intro L fb w h s fails sug hfails hpass hzero hsug hsome
  have hedge := tileEdge_le L
  have haxis := axisSuggestion_toNat (tileEdge_pos L) (by omega) hfails hpass hzero hsug
  have hcheck : checkDimensions L w h = .error ⟨.dimension,
      BitVec.ofNat 32 ((fails w.toNat).toNat + 2 * (fails h.toNat).toNat),
      BitVec.ofNat 32 (sug h.toNat * 65536 + sug w.toNat)⟩ := by
    simp only [checkDimensions, dimensionFails_eq hfails, dimensionFlags, append_half_eq, haxis]
    rw [if_pos (by rw [Bool.or_eq_true]; exact hsome)]
  rw [exec_frameInstr, frameBody, hcheck]
  rfl

end Sys2Proof.Machine
end

section
/-! PROOFS. TILE and FRAME when they complete: the bytes they write, the registers they leave, and FRAME as the TILE
commands of its tiles in raster order (43_tile_encoder.md R240, R241, R243). -/

namespace Sys2Proof.Machine

/-! ## The state after the writes (43_tile_encoder.md R240) -/

theorem advance_emit_eq (e : Encoded) (s : State) : advance (emit e s) = { s with
    buf := (emit e s).buf
    outPtr := s.outPtr + BitVec.ofNat 32 e.pat.length
    colPtr := s.colPtr + BitVec.ofNat 32 e.col.length
    warnCount := countAfter s e.misses.length
    warnRgba := rgbaAfter s e.misses
    cmdPtr := s.cmdPtr + 16#32 } := by
  rw [emit, warnAll_eq]
  rfl

section Reads
variable {e : Encoded} {s : State}

theorem emit_read_pat (hdis : ¬ overlaps ⟨s.outPtr, e.pat.length⟩ ⟨s.colPtr, e.col.length⟩) {j : Nat}
    (hj : j < e.pat.length) : (emit e s).buf.read (s.outPtr.toNat + j) = e.pat.getD j 0 := by
  rw [emit_buf, Memory.read_writeBytes_outside _ _ _ _ (by simp only [overlaps] at hdis; omega),
    Memory.read_writeBytes_inside _ _ _ _ hj, List.getD_eq_getElem _ _ hj]

theorem emit_read_col {j : Nat} (hj : j < e.col.length) :
    (emit e s).buf.read (s.colPtr.toNat + j) = e.col.getD j 0 := by
  rw [emit_buf, Memory.read_writeBytes_inside _ _ _ _ hj, List.getD_eq_getElem _ _ hj]

theorem emit_read_elsewhere {a : Nat} (hout : ¬ (s.outPtr.toNat ≤ a ∧ a < s.outPtr.toNat + e.pat.length))
    (hcol : ¬ (s.colPtr.toNat ≤ a ∧ a < s.colPtr.toNat + e.col.length)) :
    (emit e s).buf.read a = s.buf.read a := by
  rw [emit_buf, Memory.read_writeBytes_outside _ _ _ _ (by omega), Memory.read_writeBytes_outside _ _ _ _ (by omega)]

end Reads

section EncodedTiles
variable {L : TileLayout} {fb : Word} {w fg : Nat} {s : State} {tiles : List (Nat × Nat)}

theorem patternBytes_tileSlots_length (c : Nat × Nat) :
    (patternBytes L (tileSlots L fb w c.1 c.2 s)).length = patternLength L := by
  rw [← slotRows_window]
  exact patternBytes_length (slotRows_window_isSquare ..)

theorem encodedTiles_pat_length : (encodedTiles L fb w fg s tiles).pat.length = tiles.length * patternLength L :=
  length_flatMap_of_forall fun c _ => patternBytes_tileSlots_length c

theorem encodedTiles_col_length : (encodedTiles L fb w fg s tiles).col.length = tiles.length * colorLength L :=
  List.length_replicate

/-- The bytes of tile `i` of the list stand at its place. -/
theorem emit_encodedTiles_read_pat
    (hdis : ¬ overlaps ⟨s.outPtr, tiles.length * patternLength L⟩ ⟨s.colPtr, tiles.length * colorLength L⟩)
    {i j : Nat} (hi : i < tiles.length) (hj : j < patternLength L) :
    (emit (encodedTiles L fb w fg s tiles) s).buf.read (s.outPtr.toNat + i * patternLength L + j) =
      (patternBytes L (tileSlots L fb w tiles[i].1 tiles[i].2 s)).getD j 0 := by
  have hplace : i * patternLength L + j < (encodedTiles L fb w fg s tiles).pat.length := by
    have hblock := Nat.mul_le_mul_right (patternLength L) (Nat.succ_le_of_lt hi)
    rw [Nat.succ_mul] at hblock
    rw [encodedTiles_pat_length]
    omega
  rw [Nat.add_assoc, emit_read_pat (by rwa [encodedTiles_pat_length, encodedTiles_col_length]) hplace,
    Nat.mul_comm i]
  exact getD_flatMap_of_forall (fun c _ => patternBytes_tileSlots_length c) hi hj 0

theorem emit_encodedTiles_read_col {j : Nat} (hj : j < tiles.length * colorLength L) :
    (emit (encodedTiles L fb w fg s tiles) s).buf.read (s.colPtr.toNat + j) = BitVec.ofNat 8 (16 * fg) := by
  rw [emit_read_col (by rwa [encodedTiles_col_length])]
  exact List.getD_replicate _ hj

theorem emit_encodedTiles_read_elsewhere {a : Nat}
    (hout : ¬ (s.outPtr.toNat ≤ a ∧ a < s.outPtr.toNat + tiles.length * patternLength L))
    (hcol : ¬ (s.colPtr.toNat ≤ a ∧ a < s.colPtr.toNat + tiles.length * colorLength L)) :
    (emit (encodedTiles L fb w fg s tiles) s).buf.read a = s.buf.read a :=
  emit_read_elsewhere (by rwa [encodedTiles_pat_length]) (by rwa [encodedTiles_col_length])

theorem advance_emit_encodedTiles : advance (emit (encodedTiles L fb w fg s tiles) s) = { s with
    buf := (emit (encodedTiles L fb w fg s tiles) s).buf
    outPtr := s.outPtr + BitVec.ofNat 32 (tiles.length * patternLength L)
    colPtr := s.colPtr + BitVec.ofNat 32 (tiles.length * colorLength L)
    warnCount := countAfter s (tiles.flatMap fun c => tileMisses L fb w c.1 c.2 s).length
    warnRgba := rgbaAfter s (tiles.flatMap fun c => tileMisses L fb w c.1 c.2 s)
    cmdPtr := s.cmdPtr + 16#32 } := by
  rw [advance_emit_eq, encodedTiles_pat_length, encodedTiles_col_length]
  rfl

theorem complete_outputBody_of_encoded {h n : Nat} {encoding : Except Err Encoded} {e : Encoded}
    (hvalid : s.lutValid = true) (hin : TileRangesInside L fb w h n s) (hdis : TileRangesDisjoint L fb w h n s)
    (hok : encoding = .ok e) :
    complete s (outputBody L fb w h n encoding s) = .next (advance (emit e s)) := by
  rw [outputBody_of_ready hvalid hin hdis, hok]
  rfl

end EncodedTiles

/-! ## TILE and FRAME complete (43_tile_encoder.md R240, R241, R243) -/

/-- Settles O33: the tile's encoding is written as a list of one tile. -/
theorem tileCompletes : Obligations.TileCompletes := by
  rintro L fb w h tx ty s fg ⟨⟨hw, hh⟩, hvalid, hin, hdis, hfits, hfg⟩
  have ⟨_, hdisjoint, _, _⟩ := hdis
  refine ⟨advance (emit (encodedTiles L fb w.toNat fg s [(tx.toNat, ty.toNat)]) s), ?_, fun j hj => ?_,
    fun j hj => ?_, fun a hout hcol => ?_, ?_⟩
  · rw [exec_tileInstr, tileBody_of_inside hw hh]
    exact complete_outputBody_of_encoded hvalid hin hdis (encodeTile_of_fits hfits hfg)
  · simpa using emit_encodedTiles_read_pat (tiles := [(tx.toNat, ty.toNat)]) hdisjoint (i := 0) (by simp) hj
  · exact emit_encodedTiles_read_col (by simpa using hj)
  · exact emit_encodedTiles_read_elsewhere (by simpa using hout) (by simpa using hcol)
  · simpa using advance_emit_encodedTiles (L := L) (fb := fb) (w := w.toNat) (fg := fg) (s := s)
      (tiles := [(tx.toNat, ty.toNat)])

theorem rasterTiles_length (L : TileLayout) (w h : Nat) :
    (rasterTiles L w h).length = w / tileEdge L * (h / tileEdge L) := tileCoords_length ..

theorem mem_rasterTiles {L : TileLayout} {w h : Nat} {c : Nat × Nat} :
    c ∈ rasterTiles L w h ↔ c.1 < w / tileEdge L ∧ c.2 < h / tileEdge L := by
  obtain ⟨tx, ty⟩ := c
  simp [rasterTiles, and_comm]

/-- Tile (tx, ty) has number `ty * nx + tx`. -/
theorem rasterTiles_getElem {L : TileLayout} {w h tx ty : Nat} (htx : tx < w / tileEdge L) (hty : ty < h / tileEdge L) :
    ∃ hi : ty * (w / tileEdge L) + tx < (rasterTiles L w h).length,
      (rasterTiles L w h)[ty * (w / tileEdge L) + tx] = (tx, ty) := by
  have hi : ty * (w / tileEdge L) + tx < (rasterTiles L w h).length := by
    have hrow := Nat.mul_le_mul_right (w / tileEdge L) (Nat.succ_le_of_lt hty)
    rw [Nat.succ_mul] at hrow
    rw [rasterTiles_length, Nat.mul_comm (w / tileEdge L)]
    omega
  refine ⟨hi, ?_⟩
  rw [← List.getD_eq_getElem _ (0, 0) hi, Nat.mul_comm ty, rasterTiles,
    getD_flatMap_of_forall (k := w / tileEdge L) (by simp) (by simpa using hty) htx]
  simp [htx]

/-- Settles O36: the encodings of all tiles are written one after the other, in raster order. -/
theorem frameCompletes : Obligations.FrameCompletes := by
  rintro L fb w h s fg nx ny ⟨⟨hw, hwT, hh, hhT⟩, hvalid, hin, hdis, hfits, hfg⟩ rfl rfl
  have ⟨_, hdisjoint, _, _⟩ := hdis
  rw [← rasterTiles_length] at hdisjoint ⊢
  refine ⟨advance (emit (encodedTiles L fb w.toNat fg s (rasterTiles L w.toNat h.toNat)) s), ?_,
    fun ty hty tx htx j hj => ?_, fun j hj => emit_encodedTiles_read_col hj,
    fun a hout hcol => emit_encodedTiles_read_elsewhere hout hcol, advance_emit_encodedTiles⟩
  · rw [exec_frameInstr, frameBody_of_dimensions ⟨hw, hwT⟩ ⟨hh, hhT⟩]
    refine complete_outputBody_of_encoded hvalid hin hdis (encodeTiles_of_fits (fun c hc => ?_) hfg)
    obtain ⟨htx, hty⟩ := mem_rasterTiles.1 hc
    exact hfits c.2 hty c.1 htx
  · obtain ⟨hi, hc⟩ := rasterTiles_getElem htx hty
    rw [advance_buf, emit_encodedTiles_read_pat hdisjoint hi hj, hc]

end Sys2Proof.Machine
end

section
/-! PROOFS. FRAME as the TILE commands of its tiles in raster order (43_tile_encoder.md R241, 20_memory.md R87): the
outputs of the tiles done so far are kept as one encoding, and each TILE command adds its own. -/

namespace Sys2Proof.Machine

/-! ## Runs of bytes written one after the other -/

theorem Memory.read_writeBytes (bs : List Byte) (m : Memory) (a b : Nat) :
    (m.writeBytes a bs).read b = if a ≤ b ∧ b < a + bs.length then bs.getD (b - a) 0 else m.read b := by
  split
  case isTrue hin =>
    obtain ⟨i, rfl⟩ := Nat.exists_eq_add_of_le hin.1
    have hi : i < bs.length := by omega
    rw [Nat.add_sub_cancel_left, Memory.read_writeBytes_inside bs m a i hi, List.getD_eq_getElem _ _ hi]
  case isFalse hout => exact Memory.read_writeBytes_outside bs m a b (by omega)

/-- A run written over equal bytes leaves equal bytes. -/
theorem Memory.read_writeBytes_congr {m m' : Memory} (h : ∀ x, m.read x = m'.read x) (a : Nat) (bs : List Byte)
    (x : Nat) : (m.writeBytes a bs).read x = (m'.writeBytes a bs).read x := by
  rw [Memory.read_writeBytes, Memory.read_writeBytes, h]

/-- Runs that do not meet may be written in either order. -/
theorem Memory.read_writeBytes_comm {a b : Nat} {as bs : List Byte}
    (h : as.length = 0 ∨ bs.length = 0 ∨ a + as.length ≤ b ∨ b + bs.length ≤ a) (m : Memory) (x : Nat) :
    ((m.writeBytes a as).writeBytes b bs).read x = ((m.writeBytes b bs).writeBytes a as).read x := by
  simp only [Memory.read_writeBytes]
  split
  case isTrue hb => rw [if_neg (by omega)]
  case isFalse => rfl

/-- An empty run changes no word, wherever it starts. -/
theorem Memory.readWord_writeBytes_of_disjoint {bs : List Byte} {a b : Nat}
    (h : bs.length = 0 ∨ b + 4 ≤ a ∨ a + bs.length ≤ b) (m : Memory) :
    (m.writeBytes a bs).readWord b = m.readWord b := by
  obtain hempty | hout := h
  · rw [List.eq_nil_of_length_eq_zero hempty]
    rfl
  · exact Memory.readWord_writeBytes_outside bs m a b hout

theorem Memory.readWord_congr {m m' : Memory} (h : ∀ a, m.read a = m'.read a) (b : Nat) :
    m.readWord b = m'.readWord b := by
  simp only [Memory.readWord, h]

/-! ## Ranges inside ranges -/

/-- One range lies inside another, or is empty. -/
def ByteRange.Within (r' r : ByteRange) : Prop :=
  r'.len = 0 ∨ r.base.toNat ≤ r'.base.toNat ∧ r'.base.toNat + r'.len ≤ r.base.toNat + r.len

theorem ByteRange.Within.refl (r : ByteRange) : r.Within r := .inr ⟨le_rfl, le_rfl⟩

theorem ByteRange.Within.inRange {r' r : ByteRange} {s : State} (h : r'.Within r) (hr : inRange s r) :
    inRange s r' := by
  unfold ByteRange.Within at h
  unfold Machine.inRange at hr ⊢
  omega

theorem ByteRange.Within.not_overlaps {p' p q' q : ByteRange} (hp : p'.Within p) (hq : q'.Within q)
    (h : ¬ overlaps p q) : ¬ overlaps p' q' := by
  unfold ByteRange.Within at hp hq
  unfold overlaps at h ⊢
  omega

theorem ByteRange.within_of_le {p : Word} {k n len : Nat} (h : k ≤ n) : ByteRange.Within ⟨p, k * len⟩ ⟨p, n * len⟩ :=
  .inr ⟨le_rfl, Nat.add_le_add_left (Nat.mul_le_mul_right len h) _⟩

/-- Block `k` of a run of `n` blocks of `len` bytes starts at the advanced pointer. -/
theorem pointer_block_toNat {s : State} (hm : MemoryOk s) {p : Word} {n k len : Nat} (hin : inRange s ⟨p, n * len⟩)
    (hk : k ≤ n) : (p + BitVec.ofNat 32 (k * len)).toNat = p.toNat + k * len :=
  pointer_advance_toNat hm ((ByteRange.within_of_le hk).inRange hin)

theorem pointer_block_within {s : State} (hm : MemoryOk s) {p : Word} {n k len : Nat}
    (hin : inRange s ⟨p, n * len⟩) (hk : k < n) :
    ByteRange.Within ⟨p + BitVec.ofNat 32 (k * len), 1 * len⟩ ⟨p, n * len⟩ := by
  have hle := Nat.mul_le_mul_right len (Nat.succ_le_of_lt hk)
  rw [Nat.succ_mul] at hle
  refine .inr ?_
  simp only [pointer_block_toNat hm hin hk.le]
  omega

/-! ## Encodings one after the other -/

/-- The outputs of two encodings, the second after the first. -/
def Encoded.append (e r : Encoded) : Encoded := ⟨e.pat ++ r.pat, e.col ++ r.col, e.misses ++ r.misses⟩

def Encoded.empty : Encoded := ⟨[], [], []⟩

theorem encodeTiles_cons_eq_ok {L : TileLayout} {fb : Word} {w : Nat} {s : State} {c : Nat × Nat}
    {rest : List (Nat × Nat)} {r : Encoded} (h : encodeTiles L fb w s (c :: rest) = .ok r) :
    ∃ first others, encodeTile L fb w c.1 c.2 s = .ok first ∧ encodeTiles L fb w s rest = .ok others ∧
      r = first.append others := by
  obtain ⟨first, hfirst, h⟩ := bind_eq_ok.1 h
  obtain ⟨others, hothers, h⟩ := bind_eq_ok.1 h
  exact ⟨first, others, hfirst, hothers, (pure_eq_ok.1 h).symm⟩

theorem Encoded.append_assoc (e r q : Encoded) : (e.append r).append q = e.append (r.append q) := by
  simp [Encoded.append]

@[simp] theorem Encoded.empty_append (e : Encoded) : Encoded.empty.append e = e := rfl

/-- The state after `k` tiles whose outputs are `e`, with the memory `m`; `advance_emit_afterTiles` ties it to TILE's
writes. -/
def afterTiles (e : Encoded) (k : Nat) (m : Memory) (s : State) : State :=
  { s with
    buf := m
    outPtr := s.outPtr + BitVec.ofNat 32 e.pat.length
    colPtr := s.colPtr + BitVec.ofNat 32 e.col.length
    warnCount := countAfter s e.misses.length
    warnRgba := rgbaAfter s e.misses
    cmdPtr := s.cmdPtr + BitVec.ofNat 32 (16 * k) }

theorem countAfter_zero (s : State) : countAfter s 0 = s.warnCount := by
  have hlt := s.warnCount.isLt
  rw [countAfter, Nat.add_zero, Nat.min_eq_left (by omega), BitVec.ofNat_toNat, BitVec.setWidth_eq]

theorem countAfter_toNat (s : State) (k : Nat) : (countAfter s k).toNat = min (s.warnCount.toNat + k) 0xFFFFFFFF := by
  rw [countAfter, BitVec.toNat_ofNat]
  omega

theorem rgbaAfter_nil (s : State) : rgbaAfter s [] = s.warnRgba := by simp [rgbaAfter]

theorem afterTiles_start (s : State) : afterTiles .empty 0 s.buf s = s := by
  simp [afterTiles, Encoded.empty, countAfter_zero, rgbaAfter_nil]

theorem countAfter_afterTiles (e : Encoded) (k : Nat) (m : Memory) (s : State) (j : Nat) :
    countAfter (afterTiles e k m s) j = countAfter s (e.misses.length + j) := by
  apply BitVec.eq_of_toNat_eq
  have hcount : (afterTiles e k m s).warnCount.toNat = _ := countAfter_toNat s e.misses.length
  rw [countAfter_toNat, countAfter_toNat, hcount]
  omega

/-- The first miss of all stays latched. -/
theorem rgbaAfter_afterTiles (e : Encoded) (k : Nat) (m : Memory) (s : State) (misses : List Word) :
    rgbaAfter (afterTiles e k m s) misses = rgbaAfter s (e.misses ++ misses) := by
  have hlatch : rgbaAfter (afterTiles e k m s) misses =
      if countAfter s e.misses.length = 0#32 then misses.headD (rgbaAfter s e.misses) else rgbaAfter s e.misses := rfl
  have hzero : countAfter s e.misses.length = 0#32 ↔ s.warnCount = 0#32 ∧ e.misses = [] := by
    rw [← BitVec.toNat_inj, ← BitVec.toNat_inj, countAfter_toNat, ← List.length_eq_zero_iff]
    simp
  simp only [hlatch, hzero]
  by_cases h0 : s.warnCount = 0#32
  · cases hmisses : e.misses <;> simp [rgbaAfter, h0]
  · simp [rgbaAfter, h0]

theorem advance_emit_afterTiles (e r : Encoded) (k : Nat) (m : Memory) (s : State) :
    advance (emit r (afterTiles e k m s)) =
      afterTiles (e.append r) (k + 1) (emit r (afterTiles e k m s)).buf s := by
  rw [advance_emit_eq, countAfter_afterTiles, rgbaAfter_afterTiles]
  simp [afterTiles, Encoded.append, BitVec.ofNat_add, BitVec.add_assoc, Nat.mul_add]

/-- Tiles that were written before leave the bytes as if all were written at once. -/
theorem emit_afterTiles_read {e r : Encoded} {k : Nat} {m : Memory} {s : State}
    (hm : ∀ a, m.read a = (emit e s).buf.read a)
    (hout : (s.outPtr + BitVec.ofNat 32 e.pat.length).toNat = s.outPtr.toNat + e.pat.length)
    (hcol : (s.colPtr + BitVec.ofNat 32 e.col.length).toNat = s.colPtr.toNat + e.col.length)
    (hdis : ¬ overlaps ⟨s.outPtr, (e.append r).pat.length⟩ ⟨s.colPtr, (e.append r).col.length⟩) (a : Nat) :
    (emit r (afterTiles e k m s)).buf.read a = (emit (e.append r) s).buf.read a := by
  have hmeet : r.pat.length = 0 ∨ e.col.length = 0 ∨
      s.outPtr.toNat + e.pat.length + r.pat.length ≤ s.colPtr.toNat ∨
        s.colPtr.toNat + e.col.length ≤ s.outPtr.toNat + e.pat.length := by
    simp only [overlaps, Encoded.append, List.length_append] at hdis
    omega
  have hbuf : (emit r (afterTiles e k m s)).buf = (m.writeBytes (s.outPtr.toNat + e.pat.length) r.pat).writeBytes
      (s.colPtr.toNat + e.col.length) r.col := by
    rw [emit_buf, ← hout, ← hcol]
    rfl
  rw [hbuf, emit_buf, Encoded.append, Memory.writeBytes_append, Memory.writeBytes_append]
  refine Memory.read_writeBytes_congr (fun x => ?_) _ _ _
  rw [Memory.read_writeBytes_comm hmeet]
  refine Memory.read_writeBytes_congr (fun y => ?_) _ _ _
  rw [hm, emit_buf]

/-! ## What a tile's encoding depends on -/

/-- `v` has the mapping of `s`, the same frame and, where the layout reads it, the same fixed table. -/
structure SameInputs (L : TileLayout) (fb : Word) (w h : Nat) (s v : State) : Prop where
  lut : v.lut = s.lut
  lutN : v.lutN = s.lutN
  fixBase : v.fixBase = s.fixBase
  fixCount : v.fixCount = s.fixCount
  frame : ∀ b, fb.toNat ≤ b → b + 4 ≤ fb.toNat + 4 * w * h → v.buf.readWord b = s.buf.readWord b
  fix : isMono L = true → 1 ≤ s.lutN.toNat → ∀ b, s.fixBase.toNat ≤ b →
    b + 4 ≤ s.fixBase.toNat + 4 * s.fixCount.toNat → v.buf.readWord b = s.buf.readWord b

section SameInputs
variable {L : TileLayout} {fb : Word} {w h : Nat} {s v : State}

theorem SameInputs.resolve (hs : SameInputs L fb w h s v) (px : Word) : resolve v px = resolve s px := by
  simp only [Machine.resolve, lutColors, hs.lut, hs.lutN]

theorem SameInputs.fixLookup (hs : SameInputs L fb w h s v) (hmono : isMono L = true) (hcolors : 1 ≤ s.lutN.toNat)
    (x : Rgb) : fixLookup v x = fixLookup s x := by
  rw [Machine.fixLookup, Machine.fixLookup, ← List.head?_filterMap, ← List.head?_filterMap, hs.fixCount]
  refine congrArg List.head? (List.filterMap_congr fun i hi => ?_)
  have hi := List.mem_range.1 hi
  have hentry : fixEntry v i = fixEntry s i := by
    rw [fixEntry, fixEntry, hs.fixBase]
    exact hs.fix hmono hcolors _ (by omega) (by omega)
  rw [hentry]

theorem SameInputs.layoutForeground (hs : SameInputs L fb w h s v) : layoutForeground L v = layoutForeground L s := by
  unfold Machine.layoutForeground
  split
  case isFalse => rfl
  case isTrue hmono =>
    by_cases hempty : s.lutN = 0#8
    · rw [foreground, foreground, if_pos (hs.lutN.trans hempty), if_pos hempty]
    · have hcolors : 1 ≤ s.lutN.toNat := Nat.pos_of_ne_zero fun h0 => hempty (BitVec.eq_of_toNat_eq h0)
      have hslot : lutSlot v 1 = lutSlot s 1 := by rw [lutSlot, lutSlot, hs.lut]
      simp only [foreground, hs.lutN, hslot, hs.fixLookup hmono hcolors]

/-- A pixel of a tile inside the frame is inside the frame. -/
theorem pixel_inside {T tx ty x y : Nat} (hw : (tx + 1) * T ≤ w) (hh : (ty + 1) * T ≤ h) (hx : x < T) (hy : y < T) :
    4 * ((ty * T + y) * w + tx * T + x) + 4 ≤ 4 * w * h := by
  rw [Nat.succ_mul] at hw hh
  have hrow : (ty * T + y + 1) * w ≤ h * w := Nat.mul_le_mul_right w (by omega)
  have hsize : 4 * w * h = 4 * (h * w) := by ring
  rw [Nat.succ_mul] at hrow
  omega

theorem SameInputs.tilePixels (hs : SameInputs L fb w h s v) {tx ty : Nat} (hw : (tx + 1) * tileEdge L ≤ w)
    (hh : (ty + 1) * tileEdge L ≤ h) : tilePixels L fb w tx ty v = tilePixels L fb w tx ty s := by
  refine List.map_congr_left fun y hy => List.map_congr_left fun x hx => hs.frame _ (Nat.le_add_right ..) ?_
  have hpixel := pixel_inside hw hh (List.mem_range.1 hx) (List.mem_range.1 hy)
  omega

theorem SameInputs.encodeTile (hs : SameInputs L fb w h s v) {tx ty : Nat} (hw : (tx + 1) * tileEdge L ≤ w)
    (hh : (ty + 1) * tileEdge L ≤ h) : encodeTile L fb w tx ty v = encodeTile L fb w tx ty s := by
  simp only [encodeTile_eq, tileSlots, tileMisses, hs.resolve, hs.layoutForeground, hs.tilePixels hw hh]

/-- A word in a range that the writes do not meet is unchanged. -/
theorem emit_readWord_outside {e : Encoded} {outLen colLen : Nat} {r : ByteRange} (hpat : e.pat.length ≤ outLen)
    (hcol : e.col.length ≤ colLen) (hout : ¬ overlaps ⟨s.outPtr, outLen⟩ r)
    (hcolr : ¬ overlaps ⟨s.colPtr, colLen⟩ r) {b : Nat} (hlow : r.base.toNat ≤ b)
    (hhigh : b + 4 ≤ r.base.toNat + r.len) : (emit e s).buf.readWord b = s.buf.readWord b := by
  simp only [overlaps] at hout hcolr
  rw [emit_buf, Memory.readWord_writeBytes_of_disjoint (by omega), Memory.readWord_writeBytes_of_disjoint (by omega)]

end SameInputs

/-! ## One more tile -/

/-- `v` is the state after the first `k` tiles, whose outputs are `e`: every register is known, and BUF has the
bytes that writing `e` at once would leave. -/
structure TilesDone (L : TileLayout) (e : Encoded) (k : Nat) (s v : State) : Prop where
  patLength : e.pat.length = k * patternLength L
  colLength : e.col.length = k * colorLength L
  state : v = afterTiles e k v.buf s
  read : ∀ a, v.buf.read a = (emit e s).buf.read a

theorem TilesDone.start (L : TileLayout) (s : State) : TilesDone L .empty 0 s s where
  patLength := by simp [Encoded.empty]
  colLength := by simp [Encoded.empty]
  state := (afterTiles_start s).symm
  read _ := by rw [emit_buf]; rfl

section OneMore
variable {L : TileLayout} {fb : Word} {w h n k : Nat} {s v : State} {e : Encoded}

theorem TilesDone.sameInputs (hv : TilesDone L e k s v) (hk : k ≤ n) (hdis : TileRangesDisjoint L fb w h n s) :
    SameInputs L fb w h s v := by
  obtain ⟨hpat, hcol, hstate, hread⟩ := hv
  obtain ⟨outFrame, -, colFrame, fix⟩ := hdis
  have hpatLen : e.pat.length ≤ n * patternLength L := hpat ▸ Nat.mul_le_mul_right _ hk
  have hcolLen : e.col.length ≤ n * colorLength L := hcol ▸ Nat.mul_le_mul_right _ hk
  refine ⟨(congrArg State.lut hstate :), (congrArg State.lutN hstate :), (congrArg State.fixBase hstate :),
    (congrArg State.fixCount hstate :), fun b hlow hhigh => ?_, fun hmono hcolors b hlow hhigh => ?_⟩
  · rw [Memory.readWord_congr hread]
    exact emit_readWord_outside hpatLen hcolLen outFrame colFrame hlow hhigh
  · obtain ⟨outFix, colFix⟩ := fix hmono hcolors
    rw [Memory.readWord_congr hread]
    exact emit_readWord_outside hpatLen hcolLen outFix colFix hlow hhigh

/-- The ranges of the next tile lie in those of the whole run, so its checks pass. -/
theorem TilesDone.ranges (hv : TilesDone L e k s v) (hm : MemoryOk s) (hk : k < n)
    (hin : TileRangesInside L fb w h n s) (hdis : TileRangesDisjoint L fb w h n s) :
    TileRangesInside L fb w h 1 v ∧ TileRangesDisjoint L fb w h 1 v := by
  obtain ⟨inFrame, inOut, inCol, inFix⟩ := hin
  obtain ⟨outFrame, outCol, colFrame, fix⟩ := hdis
  have hpat := pointer_block_within hm inOut hk
  have hcol := pointer_block_within hm inCol hk
  rw [hv.state]
  simp only [afterTiles, TileRangesInside, TileRangesDisjoint, hv.patLength, hv.colLength]
  exact ⟨⟨inFrame, hpat.inRange inOut, hcol.inRange inCol, inFix⟩,
    hpat.not_overlaps (.refl _) outFrame, hpat.not_overlaps hcol outCol, hcol.not_overlaps (.refl _) colFrame,
    fun hmono hcolors => ⟨hpat.not_overlaps (.refl _) (fix hmono hcolors).1,
      hcol.not_overlaps (.refl _) (fix hmono hcolors).2⟩⟩

theorem TilesDone.next (hv : TilesDone L e k s v) (hm : MemoryOk s) (hk : k < n)
    (hin : TileRangesInside L fb w h n s) (hdis : TileRangesDisjoint L fb w h n s) {r : Encoded}
    (hpat : r.pat.length = patternLength L) (hcol : r.col.length = colorLength L) :
    TilesDone L (e.append r) (k + 1) s (advance (emit r v)) := by
  obtain ⟨-, inOut, inCol, -⟩ := hin
  obtain ⟨-, outCol, -, -⟩ := hdis
  obtain ⟨hpatLen, hcolLen, hstate, hread⟩ := hv
  have hpats : (e.append r).pat.length = (k + 1) * patternLength L := by
    rw [Encoded.append, List.length_append, hpatLen, hpat, Nat.succ_mul]
  have hcols : (e.append r).col.length = (k + 1) * colorLength L := by
    rw [Encoded.append, List.length_append, hcolLen, hcol, Nat.succ_mul]
  refine ⟨hpats, hcols, ?_, ?_⟩
  · rw [hstate, advance_emit_afterTiles]
    rfl
  · rw [hstate, advance_buf]
    refine emit_afterTiles_read hread ?_ ?_ ?_
    · rw [hpatLen, pointer_block_toNat hm inOut hk.le]
    · rw [hcolLen, pointer_block_toNat hm inCol hk.le]
    · rw [hpats, hcols]
      exact (ByteRange.within_of_le hk).not_overlaps (ByteRange.within_of_le hk) outCol

end OneMore

section Run
variable {L : TileLayout} {fb : Word} {w h : Half} {n : Nat} {s : State}

/-- The TILE command of the next tile completes, with the encoding FRAME gave the tile. -/
theorem TilesDone.exec_tile {k : Nat} {v : State} {e r : Encoded} {tx ty : Half} (hv : TilesDone L e k s v)
    (hm : MemoryOk s) (hvalid : s.lutValid = true) (hk : k < n) (hin : TileRangesInside L fb w.toNat h.toNat n s)
    (hdis : TileRangesDisjoint L fb w.toNat h.toNat n s) (hw : (tx.toNat + 1) * tileEdge L ≤ w.toNat)
    (hh : (ty.toNat + 1) * tileEdge L ≤ h.toNat) (hr : encodeTile L fb w.toNat tx.toNat ty.toNat s = .ok r) :
    exec (tileInstr L fb w h tx ty) v = .next (advance (emit r v)) := by
  obtain ⟨hin1, hdis1⟩ := hv.ranges hm hk hin hdis
  have hvalid1 : v.lutValid = true := by rw [hv.state]; exact hvalid
  rw [← (hv.sameInputs hk.le hdis).encodeTile hw hh] at hr
  rw [exec_tileInstr, tileBody_of_inside hw hh]
  exact complete_outputBody_of_encoded hvalid1 hin1 hdis1 hr

theorem runCommands_cons_of_next {i : Instr} {rest : List Instr} {v t : State} (h : exec i v = .next t) :
    runCommands (i :: rest) v = runCommands rest t := by
  rw [runCommands, h]

/-- A tile's coordinates fit their operand halves. -/
theorem ofNat_coordinate_toNat {c : Nat} {v : Half} (h : (c + 1) * tileEdge L ≤ v.toNat) :
    (BitVec.ofNat 16 c).toNat = c := by
  have hle := Nat.le_mul_of_pos_right (c + 1) (tileEdge_pos L)
  have hv := v.isLt
  exact Nat.mod_eq_of_lt (by omega)

/-- The TILE commands of further tiles, by induction on the tiles. -/
theorem TilesDone.run {tiles : List (Nat × Nat)} {k : Nat} {v : State} {e r : Encoded} (hv : TilesDone L e k s v)
    (hm : MemoryOk s) (hvalid : s.lutValid = true) (hin : TileRangesInside L fb w.toNat h.toNat n s)
    (hdis : TileRangesDisjoint L fb w.toNat h.toNat n s) (hk : k + tiles.length ≤ n)
    (hmem : ∀ c ∈ tiles, (c.1 + 1) * tileEdge L ≤ w.toNat ∧ (c.2 + 1) * tileEdge L ≤ h.toNat)
    (hr : encodeTiles L fb w.toNat s tiles = .ok r) :
    ∃ u, runCommands (tiles.map fun c => tileInstr L fb w h (BitVec.ofNat 16 c.1) (BitVec.ofNat 16 c.2)) v = some u ∧
      TilesDone L (e.append r) (k + tiles.length) s u := by
  induction tiles generalizing k v e r with
  | nil =>
    obtain rfl := Except.ok.inj hr
    refine ⟨v, rfl, ?_⟩
    simpa [Encoded.append] using hv
  | cons c rest ih =>
    obtain ⟨first, others, hfirst, hothers, rfl⟩ := encodeTiles_cons_eq_ok hr
    obtain ⟨hw, hh⟩ := hmem c (by simp)
    obtain ⟨hpat, hcol⟩ := encodeTile_lengths hfirst
    have htx := ofNat_coordinate_toNat hw
    have hty := ofNat_coordinate_toNat hh
    rw [List.length_cons] at hk
    have hnext := hv.next hm (by omega) hin hdis hpat hcol
    obtain ⟨u, hu, hdone⟩ := ih hnext (by omega) (fun c hc => hmem c (by simp [hc])) hothers
    have hexec := hv.exec_tile (tx := BitVec.ofNat 16 c.1) (ty := BitVec.ofNat 16 c.2) hm hvalid (by omega) hin hdis
      (by rwa [htx]) (by rwa [hty]) (by rwa [htx, hty])
    refine ⟨u, ?_, ?_⟩
    · rw [List.map_cons, runCommands_cons_of_next hexec, hu]
    · rwa [Encoded.append_assoc, Nat.add_assoc, Nat.add_comm 1] at hdone

end Run

/-- Settles O39: each TILE command encodes as FRAME did, because the tiles before it wrote neither the frame nor the
fixed table, and writes its bytes where FRAME wrote them. -/
theorem frameIsItsTilesInRasterOrder : Obligations.FrameIsItsTilesInRasterOrder := by
  intro L fb w h s t hinv hexec hptr
  have hm := hinv.memory
  rw [exec_frameInstr] at hexec
  obtain ⟨body, hbody, rfl⟩ | ⟨e, -, rfl⟩ := complete_next hexec
  · obtain ⟨-, hvalid, hranges, e, he, rfl⟩ := frameBody_eq_ok.1 hbody
    obtain ⟨hin, hdis⟩ := checkTileRanges_ok_iff.1 hranges
    have hmem : ∀ c ∈ rasterTiles L w.toNat h.toNat,
        (c.1 + 1) * tileEdge L ≤ w.toNat ∧ (c.2 + 1) * tileEdge L ≤ h.toNat := fun c hc => by
      obtain ⟨htx, hty⟩ := mem_rasterTiles.1 hc
      exact ⟨Nat.mul_le_of_le_div _ _ _ htx, Nat.mul_le_of_le_div _ _ _ hty⟩
    have hcount : 0 + (rasterTiles L w.toNat h.toNat).length ≤ tilesAlong L w * tilesAlong L h := by
      rw [Nat.zero_add, rasterTiles_length]
      rfl
    obtain ⟨u, hu, hdone⟩ := (TilesDone.start L s).run hm hvalid hin hdis hcount hmem he
    rw [Encoded.empty_append, Nat.zero_add, rasterTiles_length] at hdone
    refine ⟨u, hu, hdone.read, ?_⟩
    rw [advance_emit_eq]
    exact hdone.state
  · have hsame : s.cmdPtr = s.cmdPtr + 16#32 := hptr
    bv_omega

end Sys2Proof.Machine
end

section
/-! PROOFS. The palette serializer: the bytes of a slot as numbers, the buffer as one block per slot, and PAL when it
completes and in each of its errors. -/

namespace Sys2Proof.Machine

/-! ## The channel codes as numbers (44_palette_serializer.md R272) -/

theorem codeByte_channel (x : Rgb) (k b : Nat) :
    codeByte b (x.extractLsb' (8 * k) 8) = BitVec.ofNat 8 (channelCode x k b) := by
  rw [codeByte, BitVec.extractLsb'_toNat, Nat.shiftRight_eq_div_pow, Nat.pow_mul]
  rfl

theorem redCode_eq (b : Nat) (x : Rgb) : redCode b x = BitVec.ofNat 8 (channelCode x 0 b) := codeByte_channel x 0 b

theorem greenCode_eq (b : Nat) (x : Rgb) : greenCode b x = BitVec.ofNat 8 (channelCode x 1 b) := codeByte_channel x 1 b

theorem blueCode_eq (b : Nat) (x : Rgb) : blueCode b x = BitVec.ofNat 8 (channelCode x 2 b) := codeByte_channel x 2 b

theorem channelCode_lt (x : Rgb) (k b : Nat) : channelCode x k b < 2 ^ b := by
  have hcode : channelCode x k b ≤ 2 ^ b - 1 := toNBit_le (Nat.le_of_lt_succ (Nat.mod_lt _ (by decide))) b
  have hpow := Nat.two_pow_pos b
  omega

/-! ## Fields put side by side in a byte -/

theorem ofNat_shiftLeft (n k : Nat) : BitVec.ofNat 8 n <<< k = BitVec.ofNat 8 (2 ^ k * n) := by
  apply BitVec.eq_of_toNat_eq
  rw [BitVec.toNat_shiftLeft, BitVec.toNat_ofNat, BitVec.toNat_ofNat, Nat.shiftLeft_eq, Nat.mod_mul_mod, Nat.mul_comm]

theorem ofNat_ushiftRight {n : Nat} (hn : n < 256) (k : Nat) :
    BitVec.ofNat 8 n >>> k = BitVec.ofNat 8 (n / 2 ^ k) := by
  apply BitVec.eq_of_toNat_eq
  rw [BitVec.toNat_ushiftRight, BitVec.toNat_ofNat, BitVec.toNat_ofNat, Nat.shiftRight_eq_div_pow, Nat.mod_eq_of_lt hn,
    Nat.mod_eq_of_lt ((Nat.div_le_self n _).trans_lt hn)]

theorem ofNat_and_mask {mask k : Nat} (hmask : mask = 2 ^ k - 1) (n : Nat) :
    BitVec.ofNat 8 n &&& BitVec.ofNat 8 mask = BitVec.ofNat 8 (n % 2 ^ k) := by
  rw [hmask, ← BitVec.ofNat_and, Nat.and_two_pow_sub_one_eq_mod]

/-- A field above a field of `k` bits adds `2 ^ k` times its value. -/
theorem ofNat_shiftLeft_or {low k : Nat} (hlow : low < 2 ^ k) (high : Nat) :
    BitVec.ofNat 8 high <<< k ||| BitVec.ofNat 8 low = BitVec.ofNat 8 (2 ^ k * high + low) := by
  rw [ofNat_shiftLeft, ← BitVec.ofNat_or, Nat.mul_comm, ← Nat.shiftLeft_eq, Nat.shiftLeft_add_eq_or_of_lt hlow]

/-! ## The bytes of a slot (44_palette_serializer.md R276 to R279) -/

theorem smsByte_eq (x : Rgb) :
    smsByte x = BitVec.ofNat 8 (channelCode x 0 2 + 4 * channelCode x 1 2 + 16 * channelCode x 2 2) := by
  have hred := channelCode_lt x 0 2
  have hgreen := channelCode_lt x 1 2
  rw [smsByte, redCode_eq, greenCode_eq, blueCode_eq, BitVec.or_comm (BitVec.ofNat 8 (channelCode x 0 2)),
    ofNat_shiftLeft_or hred, BitVec.or_comm, ofNat_shiftLeft_or (by omega)]
  congr 1
  omega

theorem genLow_eq (x : Rgb) :
    genLow x = BitVec.ofNat 8 (2 * channelCode x 0 3 + 32 * channelCode x 1 3) := by
  have hred := channelCode_lt x 0 3
  rw [genLow, redCode_eq, greenCode_eq, ofNat_shiftLeft _ 1, BitVec.or_comm, ofNat_shiftLeft_or (by omega)]
  congr 1
  omega

theorem genHigh_eq (x : Rgb) : genHigh x = BitVec.ofNat 8 (2 * channelCode x 2 3) := by
  rw [genHigh, blueCode_eq, ofNat_shiftLeft]
  rfl

theorem bgrByte0_eq (x : Rgb) : bgrByte0 x =
    BitVec.ofNat 8 ((channelCode x 2 5 * 1024 + channelCode x 1 5 * 32 + channelCode x 0 5) % 256) := by
  have hred := channelCode_lt x 0 5
  rw [bgrByte0, redCode_eq, greenCode_eq, ofNat_and_mask (mask := 7) (k := 3) rfl, ofNat_shiftLeft_or hred]
  congr 1
  omega

theorem bgrByte1_eq (x : Rgb) : bgrByte1 x =
    BitVec.ofNat 8 ((channelCode x 2 5 * 1024 + channelCode x 1 5 * 32 + channelCode x 0 5) / 256) := by
  have hred := channelCode_lt x 0 5
  have hgreen := channelCode_lt x 1 5
  rw [bgrByte1, blueCode_eq, greenCode_eq, ofNat_ushiftRight (by omega), ofNat_and_mask (mask := 3) (k := 2) rfl,
    ofNat_shiftLeft_or (Nat.mod_lt _ (by decide))]
  congr 1
  omega

theorem msxByte0_eq (x : Rgb) :
    msxByte0 x = BitVec.ofNat 8 (16 * channelCode x 0 3 + channelCode x 1 3) := by
  have hgreen : channelCode x 1 3 < 2 ^ 4 := (channelCode_lt x 1 3).trans (by decide)
  rw [msxByte0, redCode_eq, greenCode_eq, ofNat_shiftLeft_or hgreen]
  rfl

theorem msxByte1_eq (x : Rgb) : msxByte1 x = BitVec.ofNat 8 (16 * channelCode x 2 3) := by
  rw [msxByte1, blueCode_eq, ofNat_shiftLeft]
  rfl

/-- Settles O40, format by format. -/
theorem paletteSlotBytes : Obligations.PaletteSlotBytes := by
  intro f s k x hf
  cases f with
  | sms => rw [slotBytes, smsByte_eq]; rfl
  | gen => rw [slotBytes, genLow_eq, genHigh_eq]; rfl
  | genHf => rw [slotBytes, genLow_eq, genHigh_eq]; rfl
  | bgr555 => rw [slotBytes, bgrByte0_eq, bgrByte1_eq]; rfl
  | msx2 => rw [slotBytes, msxByte0_eq, msxByte1_eq]; rfl
  | fixed => exact absurd rfl hf

/-! ## The slots in order (44_palette_serializer.md R270, R273, R280) -/

theorem slotBytes_fixed_of_found {s : State} {x : Rgb} (h : (fixLookup s x).isSome = true) (k : Nat) :
    slotBytes .fixed s k x = .ok (slotBytesOf .fixed s x) := by
  obtain ⟨entry, hentry⟩ := Option.isSome_iff_exists.1 h
  rw [slotBytes, fixedSlotBytes, slotBytesOf, hentry]
  rfl

theorem slotBytes_fixed_of_absent {s : State} {x : Rgb} (h : fixLookup s x = none) (k : Nat) :
    slotBytes .fixed s k x = .error ⟨.notInPalette, BitVec.ofNat 32 k, BitVec.ofNat 32 x.toNat⟩ := by
  rw [slotBytes, fixedSlotBytes, h, BitVec.ofNat_toNat]

theorem slotBytes_of_found {f : PalFormat} {s : State} {x : Rgb} (h : f = .fixed → (fixLookup s x).isSome = true)
    (k : Nat) : slotBytes f s k x = .ok (slotBytesOf f s x) := by
  by_cases hf : f = .fixed
  · subst hf
    exact slotBytes_fixed_of_found (h rfl) k
  · exact paletteSlotBytes f s k x hf

theorem slotBytesOf_length (f : PalFormat) (s : State) (x : Rgb) : (slotBytesOf f s x).length = bytesPerSlot f := by
  cases f <;> rfl

theorem serializeSlots_cons {f : PalFormat} {s : State} {slot : Nat} {x : Rgb} {bytes : List Byte}
    (h : slotBytes f s slot x = .ok bytes) (rest : List Rgb) :
    serializeSlots f s slot (x :: rest) =
      serializeSlots f s (slot + 1) rest >>= fun more => pure (bytes ++ more) := by
  rw [serializeSlots, h]
  rfl

theorem serializeSlots_of_found {f : PalFormat} {s : State} {colors : List Rgb}
    (h : ∀ x ∈ colors, f = .fixed → (fixLookup s x).isSome = true) (slot : Nat) :
    serializeSlots f s slot colors = .ok (colors.flatMap (slotBytesOf f s)) := by
  induction colors generalizing slot with
  | nil => rfl
  | cons x rest ih =>
    rw [serializeSlots_cons (slotBytes_of_found (h x (by simp)) slot), ih fun y hy => h y (by simp [hy])]
    rfl

/-- The first colour that the fixed table lacks decides. -/
theorem serializeSlots_of_first_absent {s : State} {colors : List Rgb} {i slot : Nat} (hi : i < colors.length)
    (habsent : fixLookup s colors[i] = none)
    (hbefore : ∀ (j : Nat) (hj : j < i), (fixLookup s colors[j]).isSome = true) :
    serializeSlots .fixed s slot colors =
      .error ⟨.notInPalette, BitVec.ofNat 32 (slot + i), BitVec.ofNat 32 colors[i].toNat⟩ := by
  induction colors generalizing i slot with
  | nil => simp at hi
  | cons x rest ih =>
    cases i with
    | zero =>
      rw [serializeSlots, slotBytes_fixed_of_absent (x := x) habsent]
      rfl
    | succ i =>
      rw [serializeSlots_cons (slotBytes_fixed_of_found (x := x) (hbefore 0 i.succ_pos) slot),
        ih (by simpa using hi) habsent fun j hj => hbefore (j + 1) (Nat.succ_lt_succ hj),
        Nat.add_right_comm, Nat.add_assoc]
      rfl

theorem fixLookup_isSome {s : State} {x : Rgb} {i : Nat} (hi : i < s.fixCount.toNat)
    (hmatch : (fixEntry s i).toNat % 2 ^ 24 = x.toNat) : (fixLookup s x).isSome = true :=
  List.findSome?_isSome_iff.2
    ⟨i, List.mem_range.2 hi, by rw [if_pos (eq_rgbOf_iff.2 hmatch.symm).symm]; rfl⟩

/-! ## The buffer as one block per slot (44_palette_serializer.md R270, R271, R274) -/

/-- What slot `k` of a palette buffer holds: the bytes of LUT[k], or E zero bytes in slot 0 and above LUT_N.
`paletteBuffer_eq_slots` ties it to the model. -/
def slotBlock (f : PalFormat) (s : State) (k : Nat) : List Byte :=
  if 1 ≤ k ∧ k ≤ s.lutN.toNat then slotBytesOf f s (lutSlot s k) else List.replicate (bytesPerSlot f) 0#8

/-- The bytes of the colours of the mapping. -/
def usedBytes (f : PalFormat) (s : State) : List Byte := (lutColors s).flatMap (slotBytesOf f s)

theorem slotBlock_of_used {s : State} {k : Nat} (hpos : 1 ≤ k) (hk : k ≤ s.lutN.toNat) (f : PalFormat) :
    slotBlock f s k = slotBytesOf f s (lutSlot s k) := if_pos ⟨hpos, hk⟩

theorem slotBlock_of_unused {s : State} {k : Nat} (h : k = 0 ∨ s.lutN.toNat < k) (f : PalFormat) :
    slotBlock f s k = List.replicate (bytesPerSlot f) 0#8 := if_neg (by omega)

theorem slotBlock_length (f : PalFormat) (s : State) (k : Nat) : (slotBlock f s k).length = bytesPerSlot f := by
  unfold slotBlock
  split
  · exact slotBytesOf_length ..
  · exact List.length_replicate

theorem slotBlock_getD {f : PalFormat} {j : Nat} (hj : j < bytesPerSlot f) (s : State) (k : Nat) :
    (slotBlock f s k).getD j 0 =
      if 1 ≤ k ∧ k ≤ s.lutN.toNat then (slotBytesOf f s (lutSlot s k)).getD j 0 else 0 := by
  unfold slotBlock
  split
  · rfl
  · exact List.getD_replicate _ hj

theorem lutColors_eq_map (s : State) : lutColors s = (List.range s.lutN.toNat).map fun i => lutSlot s (1 + i) := by
  refine List.ext_getElem (by simp [lutColors_length]) fun i hi _ => ?_
  rw [lutColors_getElem hi, List.getElem_map, List.getElem_range, Nat.add_comm]

theorem paletteBuffer_eq_slots {f : PalFormat} {n : SlotCount} {s : State} (fits : s.lutN.toNat + 1 ≤ slotCount n) :
    paletteBuffer f n s (usedBytes f s) = (List.range (slotCount n)).flatMap (slotBlock f s) := by
  obtain ⟨pad, hpad⟩ := Nat.exists_eq_add_of_le fits
  have hused : usedBytes f s = (List.range s.lutN.toNat).flatMap fun i => slotBlock f s (1 + i) := by
    rw [usedBytes, lutColors_eq_map, List.flatMap_map]
    refine List.flatMap_congr fun i hi => (slotBlock_of_used (Nat.le_add_right 1 i) ?_ f).symm
    rw [Nat.add_comm]
    exact List.mem_range.1 hi
  have hpadding : ((List.range pad).flatMap fun i => slotBlock f s (s.lutN.toNat + 1 + i)) =
      List.replicate (pad * bytesPerSlot f) 0#8 := by
    rw [List.flatMap_congr fun i _ => slotBlock_of_unused (.inr (by omega)) f, List.flatMap_def, List.map_const',
      List.length_range, List.flatten_replicate_replicate]
  rw [paletteBuffer, hpad, Nat.add_sub_cancel_left, Nat.add_comm s.lutN.toNat, List.range_add, List.range_add]
  simp only [List.flatMap_append, List.flatMap_map, List.range_one, List.flatMap_singleton,
    slotBlock_of_unused (.inl rfl), hused]
  rw [Nat.add_comm 1, hpadding]

/-! ## PAL completes (44_palette_serializer.md R270, R273, R274) -/

section Completes
variable {f : PalFormat} {n : SlotCount} {s : State}

theorem paletteBuffer_usedBytes_length (fits : s.lutN.toNat + 1 ≤ slotCount n) :
    (paletteBuffer f n s (usedBytes f s)).length = slotCount n * bytesPerSlot f := by
  rw [paletteBuffer_eq_slots fits, length_flatMap_of_forall fun k _ => slotBlock_length f s k, List.length_range]

theorem putOut_read_inside {bytes : List Byte} {i : Nat} (hi : i < bytes.length) :
    (putOut bytes s).buf.read (s.outPtr.toNat + i) = bytes.getD i 0 := by
  rw [putOut_buf, Memory.read_writeBytes_inside _ _ _ _ hi, List.getD_eq_getElem _ _ hi]

theorem putOut_read_outside {bytes : List Byte} {a : Nat}
    (ha : ¬ (s.outPtr.toNat ≤ a ∧ a < s.outPtr.toNat + bytes.length)) :
    (putOut bytes s).buf.read a = s.buf.read a := by
  rw [putOut_buf, Memory.read_writeBytes_outside _ _ _ _ (by omega)]

/-- Byte `j` of slot `k` stands at `OUT_PTR + k * E + j`. -/
theorem putOut_palette_read (fits : s.lutN.toNat + 1 ≤ slotCount n) {k j : Nat} (hk : k < slotCount n)
    (hj : j < bytesPerSlot f) :
    (putOut (paletteBuffer f n s (usedBytes f s)) s).buf.read (s.outPtr.toNat + k * bytesPerSlot f + j) =
      (slotBlock f s k).getD j 0 := by
  have hplace : k * bytesPerSlot f + j < slotCount n * bytesPerSlot f := by
    have hblock := Nat.mul_le_mul_right (bytesPerSlot f) (Nat.succ_le_of_lt hk)
    rw [Nat.succ_mul] at hblock
    omega
  rw [Nat.add_assoc, putOut_read_inside (by rwa [paletteBuffer_usedBytes_length fits]), paletteBuffer_eq_slots fits,
    Nat.mul_comm k, getD_flatMap_of_forall (fun k _ => slotBlock_length f s k) (by simpa using hk) hj,
    List.getElem_range]

theorem palBody_of_ready (h : PalReady f n s) :
    palBody f n s = .ok (putOut (paletteBuffer f n s (usedBytes f s)) s) := by
  obtain ⟨hvalid, fits, hout, hfix⟩ := h
  refine palBody_eq_ok.2 ⟨hvalid, fits, hout, checkPalTable_eq_ok.2 fun hf => ?_, _,
    serializeSlots_of_found (fun x hx hf => ?_) 1, rfl⟩
  · obtain ⟨htable, hdisjoint, -⟩ := hfix hf
    exact ⟨htable, hdisjoint⟩
  · obtain ⟨-, -, hfound⟩ := hfix hf
    rw [lutColors_eq_map] at hx
    obtain ⟨k, hk, rfl⟩ := List.mem_map.1 hx
    rw [Nat.add_comm]
    exact hfound k (List.mem_range.1 hk)

end Completes

/-- Settles O41: the buffer is one block per slot, written at OUT_PTR. -/
theorem palCompletes : Obligations.PalCompletes := by
  intro f n s hready
  have ⟨_, fits, _, _⟩ := hready
  have hlen := paletteBuffer_usedBytes_length (f := f) fits
  refine ⟨advance (putOut (paletteBuffer f n s (usedBytes f s)) s), ?_, fun k hk j hj => ?_, fun a ha => ?_, ?_⟩
  · rw [exec_palInstr, palBody_of_ready hready, complete_ok]
  · rw [advance_buf, putOut_palette_read fits hk hj, slotBlock_getD hj]
  · exact putOut_read_outside (by rwa [hlen])
  · rw [← hlen]
    rfl

/-! ## The errors of PAL (44_palette_serializer.md R273, R280; 60_exceptions.md R302, R303) -/

section Errors
variable {f : PalFormat} {n : SlotCount} {s : State}

theorem palBody_of_unmapped (hvalid : s.lutValid = false) : palBody f n s = .error ⟨.noMap, 0#32, 0#32⟩ := by
  rw [palBody, checkMapped_eq_error.2 ⟨hvalid, rfl⟩]
  rfl

theorem palBody_of_many (hvalid : s.lutValid = true) (hmany : slotCount n < s.lutN.toNat + 1) :
    palBody f n s =
      .error ⟨.range, BitVec.ofNat 32 (s.lutN.toNat + 1), BitVec.ofNat 32 (slotCount n)⟩ := by
  rw [palBody, checkMapped_eq_ok (u := ()).2 hvalid, if_pos hmany]
  rfl

theorem palBody_of_fits (hvalid : s.lutValid = true) (fits : s.lutN.toNat + 1 ≤ slotCount n) :
    palBody f n s = (do
      checkRange s (palRange f n s)
      checkPalTable f n s
      let used ← serializeSlots f s 1 (lutColors s)
      return putOut (paletteBuffer f n s used) s) := by
  rw [palBody, checkMapped_eq_ok (u := ()).2 hvalid, if_neg (Nat.not_lt.2 fits)]
  rfl

theorem palBody_of_outside (hvalid : s.lutValid = true) (fits : s.lutN.toNat + 1 ≤ slotCount n)
    (hout : ¬ inRange s (palRange f n s)) :
    palBody f n s = .error ⟨.bounds, s.outPtr, clipWord (palRange f n s).len⟩ := by
  rw [palBody_of_fits hvalid fits, checkRange_eq_error.2 ⟨hout, rfl⟩]
  rfl

theorem palBody_of_table_error {e : Err} (hvalid : s.lutValid = true) (fits : s.lutN.toNat + 1 ≤ slotCount n)
    (hout : inRange s (palRange f n s)) (herr : checkPalTable f n s = .error e) : palBody f n s = .error e := by
  rw [palBody_of_fits hvalid fits, checkRange_eq_ok (u := ()).2 hout, herr]
  rfl

theorem palBody_of_slot_error {e : Err} (hvalid : s.lutValid = true) (fits : s.lutN.toNat + 1 ≤ slotCount n)
    (hout : inRange s (palRange f n s)) (htable : checkPalTable f n s = .ok ())
    (herr : serializeSlots f s 1 (lutColors s) = .error e) : palBody f n s = .error e := by
  rw [palBody_of_fits hvalid fits, checkRange_eq_ok (u := ()).2 hout, htable, herr]
  rfl

theorem checkPalTable_of_outside (hfix : ¬ inRange s (fixRange s)) :
    checkPalTable .fixed n s = .error ⟨.bounds, s.fixBase, clipWord (fixRange s).len⟩ := by
  rw [checkPalTable, if_pos rfl, checkRange_eq_error.2 ⟨hfix, rfl⟩]
  rfl

theorem checkPalTable_of_overlap (hfix : inRange s (fixRange s))
    (hoverlap : overlaps (palRange .fixed n s) (fixRange s)) :
    checkPalTable .fixed n s = .error ⟨.overlap, s.outPtr, s.fixBase⟩ := by
  rw [checkPalTable, if_pos rfl, checkRange_eq_ok (u := ()).2 hfix, checkOverlap_eq_checkPairs]
  exact checkPairs_of_first (pre := []) (by simp) hoverlap

/-- The lowest slot whose colour the fixed table lacks. -/
theorem serializeSlots_of_missing_slot {k : Nat} (hpos : 1 ≤ k) (hk : k ≤ s.lutN.toNat)
    (habsent : fixLookup s (lutSlot s k) = none)
    (hbefore : ∀ j, 1 ≤ j → j < k → (fixLookup s (lutSlot s j)).isSome = true) :
    serializeSlots .fixed s 1 (lutColors s) =
      .error ⟨.notInPalette, BitVec.ofNat 32 k, BitVec.ofNat 32 (lutSlot s k).toNat⟩ := by
  obtain ⟨i, rfl⟩ := Nat.exists_eq_add_of_le' hpos
  have hi : i < (lutColors s).length := by rw [lutColors_length]; omega
  rw [serializeSlots_of_first_absent hi (by rwa [lutColors_getElem]) fun j hj => ?_, lutColors_getElem, Nat.add_comm 1]
  rw [lutColors_getElem]
  exact hbefore (j + 1) (by omega) (by omega)

end Errors

/-- Settles O42, check by check in the order of `palBody`. -/
theorem palErrorsInOrder : Obligations.PalErrorsInOrder := by
  rintro f n s out fix rfl rfl
  rw [exec_palInstr]
  refine ⟨fun hvalid => ?_, fun hvalid hmany => ?_, fun hvalid fits => ⟨fun hout => ?_, ?_⟩⟩
  · rw [palBody_of_unmapped hvalid]
    rfl
  · rw [palBody_of_many hvalid hmany]
    rfl
  · rw [palBody_of_outside hvalid fits hout]
    rfl
  · rintro hout rfl
    refine ⟨fun hfix => ?_, fun hfix hoverlap => ?_, fun hfix hdisjoint k hpos hk habsent hbefore => ?_⟩
    · rw [palBody_of_table_error hvalid fits hout (checkPalTable_of_outside hfix)]
      rfl
    · rw [palBody_of_table_error hvalid fits hout (checkPalTable_of_overlap hfix hoverlap)]
      rfl
    · have hfound (j : Nat) (hj : 1 ≤ j) (hjk : j < k) : (fixLookup s (lutSlot s j)).isSome = true := by
        obtain ⟨i, hi, hmatch⟩ := hbefore j hj hjk
        exact fixLookup_isSome hi hmatch
      rw [palBody_of_slot_error hvalid fits hout (checkPalTable_eq_ok.2 fun _ => ⟨hfix, hdisjoint⟩)
        (serializeSlots_of_missing_slot hpos hk (fixLookup_absent habsent) hfound)]
      rfl

end Sys2Proof.Machine
end

section
/-! PROOFS. How a command ends: it completes and leaves the error registers and the host's registers alone, or it
aborts; and the host's load of BUF (60_exceptions.md R304, R305, R313, R314, R330). -/

namespace Sys2Proof.Machine

/-! ## A command completes or aborts (60_exceptions.md R304, R305) -/

/-- No body that completes writes an error register, END's included. -/
theorem Completes.keeps_error {i : Instr} {s u : State} (h : Completes i s u) :
    u.error = s.error ∧ u.errCode = s.errCode ∧ u.errA = s.errA ∧ u.errB = s.errB := by
  obtain ⟨-, rfl⟩ | ⟨-, -, herror, hcode, ha, hb⟩ := h.status
  · exact ⟨rfl, rfl, rfl, rfl⟩
  · exact ⟨herror, hcode, ha, hb⟩

/-- Settles O43: a body that completes is followed by the common advance alone, and an abort takes the state before. -/
theorem everyCommandCompletesOrAborts : Obligations.EveryCommandCompletesOrAborts := by
  intro i s
  obtain ⟨u, hu, hx⟩ | ⟨e, hcode, hx⟩ := exec_cases i s
  · obtain ⟨-, -, hcmd⟩ := hu.keeps_stream
    exact ⟨_, hx, .inl ⟨congrArg (· + 16#32) hcmd, hu.keeps_error⟩⟩
  · exact ⟨_, hx, .inr ⟨e.code, e.a, e.b, hcode, rfl⟩⟩

/-! ## The host's registers (60_exceptions.md R313) -/

theorem Completes.keeps_hostRegisters {i : Instr} {s u : State} (h : Completes i s u) :
    u.ie = s.ie ∧ u.maxLimit = s.maxLimit ∧ u.unlimited = s.unlimited ∧ u.fixBase = s.fixBase ∧
      u.fixCount = s.fixCount := by
  cases h with
  | tile | frame => simp [emit]
  | finish | keep | pointers | result | warned | clear | build | pal => exact ⟨rfl, rfl, rfl, rfl, rfl⟩

/-- DONE is END's alone (40_stream_control.md R141). -/
theorem Completes.keeps_done {i : Instr} {s u : State} (h : Completes i s u) (hi : i ≠ .endStream) :
    u.done = s.done := by
  obtain ⟨rfl, -⟩ | ⟨-, hdone, -⟩ := h.status
  · exact absurd rfl hi
  · exact hdone

/-- Settles O44: no body writes these registers, nor do the advance and the abort, which sets ERROR. -/
theorem noCommandWritesHostRegisters : Obligations.NoCommandWritesHostRegisters := by
  intro i s t h
  obtain ⟨u, hu, rfl⟩ | ⟨e, -, rfl⟩ := exec_next h
  · obtain ⟨hie, hmax, hunlimited, hbase, hcount⟩ := hu.keeps_hostRegisters
    obtain ⟨hhost, hsize, -⟩ := hu.keeps_stream
    obtain ⟨herror, -⟩ := hu.keeps_error
    exact ⟨hie, hmax, hunlimited, hbase, hcount, hsize, hhost, hu.keeps_done, herror.trans⟩
  · exact ⟨rfl, rfl, rfl, rfl, rfl, rfl, rfl, fun _ => rfl, fun _ => rfl⟩

/-! ## How the block stops (60_exceptions.md R314) -/

/-- Settles O46: BUSY is cleared by END, which sets DONE, and by an abort, which sets ERROR. -/
theorem onlyEndStopsWithoutAnError : Obligations.OnlyEndStopsWithoutAnError := by
  intro i s t h hbusy hstopped
  obtain ⟨u, hu, rfl⟩ | ⟨e, -, rfl⟩ := exec_next h
  · obtain ⟨rfl, rfl⟩ | ⟨hkept, -⟩ := hu.status
    · exact .inl ⟨rfl, rfl⟩
    · simp [hkept, hbusy] at hstopped
  · exact .inr rfl

/-! ## The host's load of BUF (60_exceptions.md R330; logs 6 and 12) -/

theorem step_loadBuf (base : Nat) (bs : List Byte) (rest : List HostAction) (s : State) :
    step { s with host := .loadBuf base bs :: rest } = hostLoad base bs { s with host := rest } := rfl

theorem hostLoad_of_busy {base : Nat} {bs : List Byte} {s : State} (h : s.busy = true) :
    hostLoad base bs s = .refused .hostWroteBufWhileBusy := if_pos h

theorem hostLoad_of_inside {base : Nat} {bs : List Byte} {s : State} (h : s.busy = false)
    (hin : base + bs.length ≤ s.memSize) :
    hostLoad base bs s = .next { s with buf := s.buf.writeBytes base bs } := by
  simp only [hostLoad, h, hin, Bool.false_eq_true, if_false, if_true]

theorem hostLoad_of_outside {base : Nat} {bs : List Byte} {s : State} (h : s.busy = false)
    (hout : s.memSize < base + bs.length) : hostLoad base bs s = .fault .hostOutsideBuf := by
  simp only [hostLoad, h, hout.not_ge, Bool.false_eq_true, if_false]

/-- Settles O53: the host's next action is the load, and each of its three outcomes has its clause. -/
theorem hostLoadsBufOnlyWhileIdle : Obligations.HostLoadsBufOnlyWhileIdle := by
  intro s base bs rest
  simp only [step_loadBuf]
  refine ⟨fun hidle hin => ⟨_, hostLoad_of_inside (s := { s with host := rest }) hidle hin, fun j hj => ?_,
    fun a ha => ?_, rfl⟩, hostLoad_of_busy (s := { s with host := rest }),
    hostLoad_of_outside (s := { s with host := rest })⟩
  · exact (Memory.read_writeBytes_inside _ _ _ _ hj).trans (List.getD_eq_getElem _ _ hj).symm
  · exact Memory.read_writeBytes_outside _ _ _ _ (by omega)

end Sys2Proof.Machine
end

section
/-! PROOFS. Reset: the registers and the mapping that either reset leaves, the contents power-on draws for BUF, and
the machine's invariant right after reset (70_reset_and_hazards.md R340 to R342). -/

namespace Sys2Proof.Machine

/-! ## The states after a reset (70_reset_and_hazards.md R340)

A state is one after reset exactly when `softReset` gives it: `softReset` keeps only BUF and the model's own fields. -/

theorem step_powerOn (cells : List Host.Cell) (rest : List HostAction) (s : State) :
    step { s with host := .powerOn cells :: rest } = .next (powerOnReset cells { s with host := rest }) := rfl

theorem step_srst {v : Word} (h : v.getLsbD 3 = true) (rest : List HostAction) (s : State) :
    step { s with host := .writeReg 0x001 v :: rest } = .next (softReset { s with host := rest }) :=
  step_writeReg (writeCtrl_of_srst h _)

theorem powerOnReset_eq_softReset (cells : List Host.Cell) (s : State) :
    powerOnReset cells s = softReset { s with buf := Memory.ofCells s.memSize cells } := rfl

theorem reset_eq_softReset : State.reset = softReset State.reset := rfl

/-- The state of power-on, and what either reset leaves from any state. -/
theorem exists_eq_softReset {s t : State} {cells : List Host.Cell} {v : Word} {rest : List HostAction}
    (h : t = State.reset ∨ step { s with host := .powerOn cells :: rest } = .next t ∨
      (v.getLsbD 3 = true ∧ step { s with host := .writeReg 0x001 v :: rest } = .next t)) :
    ∃ u, t = softReset u := by
  obtain rfl | hpower | ⟨hsrst, hwrite⟩ := h
  · exact ⟨_, reset_eq_softReset⟩
  · rw [step_powerOn, powerOnReset_eq_softReset] at hpower
    exact ⟨_, (Host.Outcome.next.inj hpower).symm⟩
  · rw [step_srst hsrst] at hwrite
    exact ⟨_, (Host.Outcome.next.inj hwrite).symm⟩

/-! ## What they read (70_reset_and_hazards.md R341) -/

theorem ctrlWord_softReset (s : State) : ctrlWord (softReset s) = 0#32 := by
  rw [ctrlWord_eq]
  rfl

theorem statusWord_softReset (s : State) : statusWord (softReset s) = 0#32 :=
  BitVec.eq_of_toNat_eq (statusWord_toNat _)

theorem maxColorsWord_softReset (s : State) : maxColorsWord (softReset s) = 0x80000000#32 :=
  BitVec.eq_of_toNat_eq (maxColorsWord_toNat _)

/-- After a reset the port reads 0 at every index but those of ID and of MAXCOLORS, whose UNLIMITED is set. -/
theorem readReg_softReset (s : State) (k : Nat) :
    readReg (softReset s) k = if k = 0x000 then 0x52500701#32 else if k = 0x006 then 0x80000000#32 else 0#32 := by
  match k with
  | 0x001 => exact ctrlWord_softReset s
  | 0x002 => exact statusWord_softReset s
  | 0x006 => exact maxColorsWord_softReset s
  | 0x00D => exact lutStatWord_of_empty rfl rfl
  | 0x000 | 0x003 | 0x004 | 0x005 | 0x007 | 0x008 | 0x009 | 0x00A | 0x00B | 0x00C | 0x00E => rfl
  | k + 0x00F =>
    rw [readReg_of_ge (by omega), lutWindow_of_unmapped rfl, ite_self, if_neg (by omega), if_neg (by omega)]

theorem irq_softReset (s : State) : irq (softReset s) = false := rfl

theorem LutOk.softReset (s : State) : LutOk (softReset s) := .of_empty rfl rfl

/-- LUT_N is 0 after a reset, so the slots it leaves empty are all of them. -/
theorem lutSlot_softReset (s : State) (k : Nat) : lutSlot (softReset s) k = 0#24 := by
  unfold lutSlot
  split
  · rfl
  · exact (LutOk.softReset s).cleared _ (Nat.zero_le _)

/-- Settles O51: every state after reset is one that `softReset` gives. -/
theorem resetValues : Obligations.ResetValues := by
  intro s t cells v rest h
  obtain ⟨u, rfl⟩ := exists_eq_softReset h
  refine ⟨readReg_softReset u _, readReg_softReset u _, fun k hk => ?_, fun k hlow _ => ?_, irq_softReset u,
    lutSlot_softReset u, rfl⟩
  · obtain ⟨hid, hmax⟩ : k ≠ 0x000 ∧ k ≠ 0x006 := by
      constructor <;> rintro rfl <;> simp at hk
    rw [readReg_softReset, if_neg hid, if_neg hmax]
  · rw [readReg_softReset, if_neg (by omega), if_neg (by omega)]

/-! ## The contents drawn for BUF (70_reset_and_hazards.md R342) -/

/-- The first cell listed for an address is written last. -/
theorem Memory.read_ofCells {size a : Nat} (ha : a < size) (cells : List Host.Cell) :
    (Memory.ofCells size cells).read a =
      ((cells.find? fun c => decide (c.1 = a)).map fun c => c.2).getD Config.unwrittenByte := by
  induction cells with
  | nil => rfl
  | cons c rest ih =>
    obtain ⟨b, v⟩ := c
    rw [Memory.ofCells]
    by_cases hb : b = a
    · subst hb
      rw [if_pos ha, Memory.read_write_self, List.find?_cons_of_pos (by simp)]
      rfl
    · rw [List.find?_cons_of_neg (by simpa using hb), ← ih]
      split
      · exact Memory.read_write_of_ne _ v (Ne.symm hb)
      · rfl

/-- Settles O52: power-on is a soft reset with BUF drawn anew. -/
theorem powerOnResetDrawsBuf : Obligations.PowerOnResetDrawsBuf := fun s cells rest =>
  ⟨_, step_powerOn cells rest s, rfl, fun _ ha => Memory.read_ofCells (size := s.memSize) ha cells⟩

/-! ## The invariant after reset -/

theorem MemoryOk.reset : MemoryOk State.reset where
  canonical := Memory.wf_reset
  inside := nofun
  sizeMin := by decide
  sizeMax := by decide

/-- Settles O55: a reset establishes the status, mapping and register parts from any state, and BUF lists no byte. -/
theorem resetIsWellFormed : Obligations.ResetIsWellFormed where
  memory := .reset
  status := .softReset State.reset
  lut := .softReset State.reset
  registers := .softReset State.reset

end Sys2Proof.Machine
end
